-- ==== Sys2Proof/Word.lean ====
section
/-!
DEFINITION. The word types of the block, by the widths of spec/10_state.md R20 and spec/30_encoding.md R64.
-/

namespace Sys2Proof

/-- The command word, 64 bits (spec/30_encoding.md R64). -/
abbrev CmdWord := BitVec 64

/-- The operand field IMM of a command word, 32 bits (R64); also CMD_HELD's width (spec/10_state.md R22). -/
abbrev Imm := BitVec 32

/-- A native throttle value, 11 bits (spec/10_state.md R23). -/
abbrev Native := BitVec 11

/-- A frame word, 16 bits (spec/30_encoding.md R60). -/
abbrev FrameWord := BitVec 16

/-- A timer register, TMR_W = 16 bits (spec/00_scope.md R8). DESIGN CHOICE, safe: the width is in the type (log entry 4). -/
abbrev Timer := BitVec 16

/-- The index of a symbol, 4 bits (spec/10_state.md R20, SYM). -/
abbrev SymIndex := BitVec 4

end Sys2Proof
end

