-- ==== Sys2Proof/Config.lean ====
section
/-!
DEFINITION. The configuration parameters of spec/00_scope.md R8, their well-formedness (R9), and the two parameters the
spec leaves OPEN.
-/

namespace Sys2Proof

/-- The configuration record of spec/00_scope.md R8. -/
structure Config where
  /-- CMD_MIN, the lowest command value ("disarmed"). -/
  cmdMin : Int
  /-- CMD_MAX, the highest command value. -/
  cmdMax : Int
  /-- NAT_MIN, the lowest native throttle value. -/
  natMin : Int
  /-- NAT_MAX, the highest native throttle value. -/
  natMax : Int
  /-- P_CFG, the symbol period in ticks that software must program. -/
  pCfg : Nat
  /-- W1, the "logical one" pulse width in ticks. -/
  w1 : Nat
  /-- W0, the "logical zero" pulse width in ticks. -/
  w0 : Nat
  /-- CMD_W, the width of a command value. -/
  cmdW : Nat
  /-- TMR_W, the width of the timer registers. -/
  tmrW : Nat
  deriving DecidableEq, Repr

/-- A configuration is well-formed only if all of these hold (spec/00_scope.md R9). -/
abbrev Config.WellFormed (cfg : Config) : Prop :=
  (cfg.cmdMin < cfg.cmdMax ∧ -2 ^ 31 ≤ cfg.cmdMin ∧ cfg.cmdMax ≤ 2 ^ 31 - 1) ∧
  (0 ≤ cfg.natMin ∧ cfg.natMin ≤ cfg.natMax ∧ cfg.natMax ≤ 2047) ∧
  (0 < cfg.w0 ∧ cfg.w0 < cfg.w1 ∧ cfg.w1 < cfg.pCfg ∧ cfg.pCfg < 2 ^ cfg.tmrW) ∧
  8 ≤ cfg.tmrW

/-- The source's ratios W1/P_CFG = 3/4 and W0/P_CFG = 3/8, which a retargeted configuration should keep and the block
does not check (spec/00_scope.md R9). -/
abbrev Config.KeepsRatios (cfg : Config) : Prop :=
  4 * cfg.w1 = 3 * cfg.pCfg ∧ 8 * cfg.w0 = 3 * cfg.pCfg

/-- The values of this hardware instance (spec/00_scope.md R8). -/
def config : Config where
  cmdMin := 1000
  cmdMax := 2000
  natMin := 48
  natMax := 2047
  pCfg := 240
  w1 := 180
  w0 := 90
  cmdW := 32
  tmrW := 16

/-- F_TICK, the tick frequency in Hz: OPEN (spec/00_scope.md R8, spec/92_eei_decisions.md D3). No value. DESIGN CHOICE, safe: a
natural number (log entry 5). -/
opaque Config.fTick : Nat

/-- T_CYCLE, the host's control-cycle length in ticks: OPEN, host side (spec/00_scope.md R8, D29). No value. DESIGN
CHOICE, safe: a natural number (log entry 5). -/
opaque Config.tCycle : Nat

end Sys2Proof
end

