-- ==== Sys2Proof/Syntax.lean ====
section
/-!
DEFINITION. The ten commands of spec/30_encoding.md R66, one constructor per row of spec/opcode_table.json, with their
operands (R65).
-/

namespace Sys2Proof

/-- A command of the block (spec/30_encoding.md R66). -/
inductive Instr where
  /-- MAP c: the throttle mapper, c = sext_32(IMM) (spec/40_throttle_mapper.md R83). -/
  | map (c : Imm)
  /-- ENCODE v, t: the frame encoder, v = sext_32(IMM), t = T (spec/41_frame_encoder.md R94). -/
  | encode (v : Imm) (t : Bool)
  /-- EMIT: send FRAME (spec/42_pulse_emitter.md R113). -/
  | emit
  /-- EMITIDLE: send the Idle/Arm frame (spec/42_pulse_emitter.md R114). -/
  | emitIdle
  /-- SETCMD c: write the held command value (spec/43_scheduler.md R131). -/
  | setCmd (c : Imm)
  /-- CYCLE: one control cycle of the scheduler (spec/43_scheduler.md R132). -/
  | cycle
  /-- SETPERIOD p: write PERIOD, 1 ≤ p ≤ 2^TMR_W - 1 (spec/42_pulse_emitter.md R106). -/
  | setPeriod (p : Timer)
  /-- SETCMP w: write the compare preload, 0 ≤ w ≤ 2^TMR_W - 1 (spec/42_pulse_emitter.md R107). -/
  | setCmp (w : Timer)
  /-- RELOAD: force an update (spec/42_pulse_emitter.md R108). -/
  | reload
  /-- ENOUT: enable the output (spec/42_pulse_emitter.md R109). -/
  | enOut
  deriving DecidableEq, Repr

end Sys2Proof
end

