-- ==== Sys2Proof/WellFormed.lean ====
section
/-!
DEFINITION. Which instruction terms are instructions of the block: the operand conditions of spec/30_encoding.md R67 that
the types of Syntax.lean do not already say.
-/

namespace Sys2Proof

/-- The operand conditions of spec/30_encoding.md R67. The upper bounds of (e) and (f) are the operand's type (16 bits,
TMR_W = 16); what is left is (e)'s lower bound, p ≥ 1. -/
def Instr.wellFormed : Instr → Bool
  | .setPeriod p => p != 0
  | .map _ | .encode _ _ | .emit | .emitIdle | .setCmd _ | .cycle | .setCmp _ | .reload | .enOut => true

/-- The instruction is one the block has (spec/30_encoding.md R67). -/
abbrev Instr.WellFormed (i : Instr) : Prop := i.wellFormed = true

end Sys2Proof
end

