-- ==== Sys2Proof/Decode.lean ====
section
/-!
DEFINITION. The command word's fields (spec/30_encoding.md R64), the legality conditions (R67), the decoder, total on every
word (R69), the opcode table's rows (spec/opcode_table.json), and the encoder.
-/

namespace Sys2Proof

/-! ## Fields of a command word (R64) -/

/-- OPC = W[63:56]. -/
def opcOf (w : CmdWord) : BitVec 8 := w.extractLsb' 56 8

/-- RSV = W[55:33]. -/
def rsvOf (w : CmdWord) : BitVec 23 := w.extractLsb' 33 23

/-- T = W[32]. -/
def telemOf (w : CmdWord) : Bool := w.getLsbD 32

/-- IMM = W[31:0]. -/
def immOf (w : CmdWord) : Imm := w.extractLsb' 0 32

/-- IMM[31:16], the operand bits above a timer register's width (R67 (e), (f) at TMR_W = 16). -/
def immHighOf (w : CmdWord) : BitVec 16 := w.extractLsb' 16 16

/-- IMM[15:0], a timer operand (R65: zext, nothing scaled or shifted). -/
def immLowOf (w : CmdWord) : Timer := w.extractLsb' 0 16

/-! ## Decoding -/

/-- Why a word is illegal (spec/30_encoding.md R67, R68). The block records none of this, it only sets ERR_ILLEGAL
(spec/60_exceptions.md R142): the names are the model's. DESIGN CHOICE, safe (log entry 6). -/
inductive DecodeError where
  /-- OPC is none of the ten values (R67 (a)). -/
  | reservedOpcode
  /-- RSV is not 0 (R67 (b)). -/
  | reservedField
  /-- T = 1 on a command other than ENCODE (R67 (c)). -/
  | telemetryBit
  /-- IMM is not 0 on a command without an operand (R67 (d)). -/
  | operandPresent
  /-- SETPERIOD's operand is 0 or above 2^TMR_W - 1 (R67 (e)). -/
  | periodRange
  /-- SETCMP's operand is above 2^TMR_W - 1 (R67 (f)). -/
  | compareRange
  deriving DecidableEq, Repr

/-- A word of a command whose T must be 0 (R67 (c)); `rest` is what its other conditions give. -/
def withoutTelem (w : CmdWord) (rest : Except DecodeError Instr) : Except DecodeError Instr :=
  if telemOf w then .error .telemetryBit else rest

/-- A word of a command without an operand: T = 0 and IMM = 0 (R67 (c), (d)). -/
def decodePlain (i : Instr) (w : CmdWord) : Except DecodeError Instr :=
  withoutTelem w (if immOf w = 0 then .ok i else .error .operandPresent)

/-- SETPERIOD's word: T = 0, 1 ≤ zext(IMM) ≤ 2^TMR_W - 1 (R65, R67 (c), (e)). -/
def decodePeriod (w : CmdWord) : Except DecodeError Instr :=
  withoutTelem w (if immHighOf w = 0 ∧ immLowOf w ≠ 0 then .ok (.setPeriod (immLowOf w)) else .error .periodRange)

/-- SETCMP's word: T = 0, zext(IMM) ≤ 2^TMR_W - 1 (R65, R67 (c), (f)). -/
def decodeCompare (w : CmdWord) : Except DecodeError Instr :=
  withoutTelem w (if immHighOf w = 0 then .ok (.setCmp (immLowOf w)) else .error .compareRange)

/-- The opcode map (R66) on a word whose RSV is 0. -/
def decodeOpcode (w : CmdWord) : Except DecodeError Instr :=
  if opcOf w = 0x01 then withoutTelem w (.ok (.map (immOf w)))
  else if opcOf w = 0x02 then .ok (.encode (immOf w) (telemOf w))
  else if opcOf w = 0x03 then decodePlain .emit w
  else if opcOf w = 0x04 then decodePlain .emitIdle w
  else if opcOf w = 0x05 then withoutTelem w (.ok (.setCmd (immOf w)))
  else if opcOf w = 0x06 then decodePlain .cycle w
  else if opcOf w = 0x10 then decodePeriod w
  else if opcOf w = 0x11 then decodeCompare w
  else if opcOf w = 0x12 then decodePlain .reload w
  else if opcOf w = 0x13 then decodePlain .enOut w
  else .error .reservedOpcode

/-- The decoder, total on every 64-bit word (spec/30_encoding.md R66 to R70): a command with its operands, or the name of
what makes the word illegal. No mode bit and no state changes it (R70). -/
def decode (w : CmdWord) : Except DecodeError Instr :=
  if rsvOf w = 0 then decodeOpcode w else .error .reservedField

/-- Legality, written from spec/30_encoding.md R67 condition by condition. -/
def LegalWord (w : CmdWord) : Prop :=
  ((opcOf w).toNat ∈ [0x01, 0x02, 0x03, 0x04, 0x05, 0x06, 0x10, 0x11, 0x12, 0x13]) ∧
  rsvOf w = 0 ∧
  (telemOf w = false ∨ opcOf w = 0x02) ∧
  ((opcOf w).toNat ∈ [0x03, 0x04, 0x06, 0x12, 0x13] → immOf w = 0) ∧
  (opcOf w = 0x10 → 1 ≤ (immOf w).toNat ∧ (immOf w).toNat ≤ 2 ^ config.tmrW - 1) ∧
  (opcOf w = 0x11 → (immOf w).toNat ≤ 2 ^ config.tmrW - 1)

/-! ## Encoding -/

/-- The opcode of each command (spec/30_encoding.md R66). -/
def Instr.opc : Instr → BitVec 8
  | .map _ => 0x01
  | .encode _ _ => 0x02
  | .emit => 0x03
  | .emitIdle => 0x04
  | .setCmd _ => 0x05
  | .cycle => 0x06
  | .setPeriod _ => 0x10
  | .setCmp _ => 0x11
  | .reload => 0x12
  | .enOut => 0x13

/-- The T field of each command: ENCODE's flag, 0 otherwise (R66). -/
def Instr.telem : Instr → Bool
  | .encode _ t => t
  | .map _ | .emit | .emitIdle | .setCmd _ | .cycle | .setPeriod _ | .setCmp _ | .reload | .enOut => false

/-- The IMM field of each command (R65, R66). -/
def Instr.imm : Instr → Imm
  | .map c => c
  | .encode v _ => v
  | .setCmd c => c
  | .setPeriod p => p.setWidth 32
  | .setCmp w => w.setWidth 32
  | .emit | .emitIdle | .cycle | .reload | .enOut => 0

/-- {OPC, RSV, T, IMM} with RSV = 0 (R64). -/
def cmdWord (opc : BitVec 8) (t : Bool) (imm : Imm) : CmdWord :=
  opc ++ (0 : BitVec 23) ++ BitVec.ofBool t ++ imm

/-- The word of a command (spec/30_encoding.md R64 to R66). -/
def encode (i : Instr) : CmdWord := cmdWord i.opc i.telem i.imm

/-! ## The opcode table -/

/-- One row of spec/opcode_table.json: a word belongs to the row when its bits under the mask are the pattern's. -/
structure OpcodeRow where
  mnemonic : String
  pattern : CmdWord
  mask : CmdWord
  deriving DecidableEq, Repr

/-- The word has the row's bits under the row's mask. -/
def OpcodeRow.Matches (r : OpcodeRow) (w : CmdWord) : Prop := w &&& r.mask = r.pattern

/-- The row of spec/opcode_table.json each command stands for. -/
def Instr.row : Instr → OpcodeRow
  | .map _ => ⟨"MAP", 0x0100000000000000, 0xFFFFFFFF00000000⟩
  | .encode _ _ => ⟨"ENCODE", 0x0200000000000000, 0xFFFFFFFE00000000⟩
  | .emit => ⟨"EMIT", 0x0300000000000000, 0xFFFFFFFFFFFFFFFF⟩
  | .emitIdle => ⟨"EMITIDLE", 0x0400000000000000, 0xFFFFFFFFFFFFFFFF⟩
  | .setCmd _ => ⟨"SETCMD", 0x0500000000000000, 0xFFFFFFFF00000000⟩
  | .cycle => ⟨"CYCLE", 0x0600000000000000, 0xFFFFFFFFFFFFFFFF⟩
  | .setPeriod _ => ⟨"SETPERIOD", 0x1000000000000000, 0xFFFFFFFFFFFF0000⟩
  | .setCmp _ => ⟨"SETCMP", 0x1100000000000000, 0xFFFFFFFFFFFF0000⟩
  | .reload => ⟨"RELOAD", 0x1200000000000000, 0xFFFFFFFFFFFFFFFF⟩
  | .enOut => ⟨"ENOUT", 0x1300000000000000, 0xFFFFFFFFFFFFFFFF⟩

/-- spec/opcode_table.json, row by row and in its order. -/
def opcodeTable : List OpcodeRow :=
  [ Instr.row (.map 0), Instr.row (.encode 0 false), Instr.row .emit, Instr.row .emitIdle, Instr.row (.setCmd 0),
    Instr.row .cycle, Instr.row (.setPeriod 1), Instr.row (.setCmp 0), Instr.row .reload, Instr.row .enOut ]

/-! ## The host's reading of the decoder -/

/-- The instruction the decoder reads from the bits `w` of an opcode-table row of `nbits` bits, bit 0 least significant
(spec/00_scope.md R10). Every command is one 64-bit word (spec/30_encoding.md R70), so bits past the 64th make no command. -/
def decodeTableWord (nbits w : Nat) : Option Instr :=
  if w % 2 ^ nbits < 2 ^ 64 then (decode (BitVec.ofNat 64 (w % 2 ^ nbits))).toOption else none

end Sys2Proof
end

