-- ==== Sys2Proof/Machine/State.lean ====
section
/-!
DEFINITION. The state of the block: the sixteen registers of spec/10_state.md R20, the pin's last value and the host's
script; its reset value (spec/70_reset_and_hazards.md R160); the reasons a step can stop.
-/

namespace Sys2Proof.Machine

/-- MODE, the scheduler's mode as the last CYCLE decided it (spec/10_state.md R25). -/
inductive Mode where
  /-- 0: command at minimum. -/
  | arming
  /-- 1: command above minimum. -/
  | active
  deriving DecidableEq, Repr

/-- What the host does at the input ports rst, cmd_valid and cmd_word (spec/10_state.md R35). Every sequence of port
values is a list of these. DESIGN CHOICE (log entry 1). -/
inductive HostInput where
  /-- One cycle with rst = 1 (spec/70_reset_and_hazards.md R160). -/
  | reset
  /-- One cycle with rst = 0 and cmd_valid = 0. -/
  | idle
  /-- cmd_valid = 1 with word `w`, held cycle after cycle until it is accepted (spec/10_state.md R40). -/
  | offer (w : CmdWord)
  /-- cmd_valid = 1 with word `w` in this cycle only, then withdrawn (spec/93_implementation_defined.md I16). -/
  | offerOnce (w : CmdWord)
  deriving DecidableEq, Repr

/-- The state of the block. The first sixteen fields are "the block's whole state" (spec/10_state.md R20); the last two
carry its ports: dshotOut (DEDUCED, safe, log entry 3) and host (DESIGN CHOICE, log entry 1). -/
structure State where
  /-- CMD_HELD, signed, stored unclamped (R22). -/
  cmdHeld : Imm
  /-- NATIVE, the mapper's result (R23). -/
  native : Native
  /-- FRAME, the encoder's result (R24). -/
  frame : FrameWord
  /-- MODE (R25). -/
  mode : Mode
  /-- TX, the frame being emitted, hidden (R27). -/
  tx : FrameWord
  /-- SYM, the index of the symbol on the wire, hidden (R27). -/
  sym : SymIndex
  /-- HOLD, ticks left in the current symbol, hidden (R27). -/
  hold : Timer
  /-- BUSY, an emission is in progress (R27). -/
  busy : Bool
  /-- CNT, the timer counter (R28). -/
  cnt : Timer
  /-- PERIOD, ticks per period (R29). -/
  period : Timer
  /-- CCR_PRE, the compare register as written (R30). -/
  ccrPre : Timer
  /-- CCR_ACT, the compare value in use, hidden (R31). -/
  ccrAct : Timer
  /-- OE, output enable (R32). -/
  oe : Bool
  /-- ERR_ILLEGAL, sticky, cause 1 (R33). -/
  errIllegal : Bool
  /-- ERR_NO_OE, sticky, cause 2 (R33). -/
  errNoOe : Bool
  /-- ERR_PERIOD, sticky, cause 3 (R33). -/
  errPeriod : Bool
  /-- The value dshot_out had in the cycle just ended (R35, spec/42_pulse_emitter.md R105). -/
  dshotOut : Bool
  /-- What the host does at the input ports in the coming cycles, oldest first; when it is empty the host offers nothing. -/
  host : List HostInput
  deriving DecidableEq, Repr

/-- Nothing stops the block: "No condition in the block stops it, traps or changes its control flow"
(spec/60_exceptions.md R140). So no one raises a fault, and there is none. DEDUCED, safe: no behaviour is cut off (log entry
7). -/
inductive Fault where
  deriving DecidableEq, Repr

/-- The reasons the model gives a step no meaning. -/
inductive Refusal where
  /-- An arm of `exec` without a meaning, by its mnemonic. No arm of this model raises it. Safe. -/
  | notModelled (mnemonic : String)
  /-- Raised by `step` when the configuration breaks spec/00_scope.md R9 ("A model refuses a configuration that breaks the
  first list"); the instance's configuration does not, so no step of this machine raises it. Safe. -/
  | illFormedConfiguration
  deriving DecidableEq, Repr

/-- The block after reset (spec/10_state.md R20, spec/70_reset_and_hazards.md R160), with nothing on its ports
(log entry 1: unsafe for claims about the run of this very state; log entry 10: no state before the first reset). -/
def State.reset : State where
  cmdHeld := BitVec.ofInt 32 config.cmdMin
  native := BitVec.ofInt 11 config.natMin
  frame := 0x0000
  mode := .arming
  tx := 0x0000
  sym := 0
  hold := 0
  busy := false
  cnt := 0
  period := 0
  ccrPre := 0
  ccrAct := 0
  oe := false
  errIllegal := false
  errNoOe := false
  errPeriod := false
  dshotOut := false
  host := []

end Sys2Proof.Machine
end

