-- ==== Sys2Proof/Machine/Flags.lean ====
section
/-!
DEFINITION. The three sticky error flags (spec/60_exceptions.md R141) and the status word (spec/10_state.md R34).
-/

namespace Sys2Proof.Machine

/-- The error flags (spec/60_exceptions.md R141). -/
inductive ErrFlag where
  /-- ERR_ILLEGAL (R142). -/
  | illegal
  /-- ERR_NO_OE (R143). -/
  | noOe
  /-- ERR_PERIOD (R144). -/
  | period
  deriving DecidableEq, Repr

/-- The flag's cause code (R141). -/
def ErrFlag.code : ErrFlag → Nat
  | .illegal => 1
  | .noOe => 2
  | .period => 3

/-- The flag's bit in STATUS (R141). -/
def ErrFlag.statusBit : ErrFlag → Nat
  | .illegal => 4
  | .noOe => 5
  | .period => 6

/-- The flag's value. -/
def State.errFlag (s : State) : ErrFlag → Bool
  | .illegal => s.errIllegal
  | .noOe => s.errNoOe
  | .period => s.errPeriod

/-- setErr(E) (spec/00_scope.md R12, spec/60_exceptions.md R141): the whole of what an error does. It saves no state, changes
no mode and transfers no control (R146). -/
def State.setErr (e : ErrFlag) (s : State) : State :=
  match e with
  | .illegal => { s with errIllegal := true }
  | .noOe => { s with errNoOe := true }
  | .period => { s with errPeriod := true }

/-- MODE as STATUS bit 1 shows it: 0 ARMING, 1 ACTIVE (spec/10_state.md R25, R34). -/
def Mode.bit : Mode → Bool
  | .arming => false
  | .active => true

/-- STATUS, bit 7 first: reserved 0, ERR_PERIOD, ERR_NO_OE, ERR_ILLEGAL, reserved 0, OE, MODE, BUSY (spec/10_state.md R34). -/
def State.status (s : State) : BitVec 8 :=
  BitVec.ofBool false ++ BitVec.ofBool s.errPeriod ++ BitVec.ofBool s.errNoOe ++ BitVec.ofBool s.errIllegal ++
    BitVec.ofBool false ++ BitVec.ofBool s.oe ++ BitVec.ofBool s.mode.bit ++ BitVec.ofBool s.busy

end Sys2Proof.Machine
end

