-- ==== Sys2Proof/Machine/Operands.lean ====
section
/-!
DEFINITION. The operand forms (spec/30_encoding.md R65), the clamp of spec/00_scope.md R11, and the throttle mapper's
function (spec/40_throttle_mapper.md R80, R81).
-/

namespace Sys2Proof.Machine

/-- sext_32: a 32-bit pattern read as a two's-complement integer (spec/00_scope.md R11, spec/30_encoding.md R65). -/
def sext32 (v : Imm) : Int := v.toInt

/-- clamp(x, lo, hi) (spec/00_scope.md R11). -/
def clamp (x lo hi : Int) : Int := if x < lo then lo else if hi < x then hi else x

/-- CLAMP_CMD(c) (spec/40_throttle_mapper.md R80). -/
def clampCmd (cfg : Config) (c : Int) : Int := clamp c cfg.cmdMin cfg.cmdMax

/-- CLAMP_NAT(v) (spec/41_frame_encoder.md R90). -/
def clampNat (cfg : Config) (v : Int) : Int := clamp v cfg.natMin cfg.natMax

/-- MAPF(c), the rescale rounded half up, in exact integers (spec/40_throttle_mapper.md R81); `/` is floor division by a
positive divisor (spec/00_scope.md R11, div). -/
def mapf (cfg : Config) (c : Int) : Int :=
  let c' := clampCmd cfg c
  let d := cfg.cmdMax - cfg.cmdMin
  let r := cfg.natMax - cfg.natMin
  cfg.natMin + (2 * (c' - cfg.cmdMin) * r + d) / (2 * d)

/-- ArmTest(c): CLAMP_CMD(c) = CMD_MIN (spec/43_scheduler.md R130). -/
def armTest (cfg : Config) (c : Int) : Bool := clampCmd cfg c == cfg.cmdMin

end Sys2Proof.Machine
end

