-- ==== Sys2Proof/Machine/Frame.lean ====
section
/-!
DEFINITION. The frame word (spec/30_encoding.md R60 to R63) and the frame encoder's functions
(spec/41_frame_encoder.md R90 to R96).
-/

namespace Sys2Proof.Machine

/-- Q(v', t) = (v' << 1) | t, the 12-bit checksummed word: Q[11:1] = v', Q[0] = t (spec/41_frame_encoder.md R91). -/
def qWord (v : Native) (t : Bool) : BitVec 12 := v ++ BitVec.ofBool t

/-- The xor of the three nibbles of a 12-bit word (spec/41_frame_encoder.md R92). -/
def nibbleXor (q : BitVec 12) : BitVec 4 := q.extractLsb' 8 4 ^^^ q.extractLsb' 4 4 ^^^ q.extractLsb' 0 4

/-- CSUMF(v', t) (spec/41_frame_encoder.md R92). -/
def csumf (v : Native) (t : Bool) : BitVec 4 := nibbleXor (qWord v t)

/-- The frame word {v', t, CSUMF(v', t)} of a native value (spec/30_encoding.md R60). -/
def packFrame (v : Native) (t : Bool) : FrameWord := qWord v t ++ csumf v t

/-- ENCF(v, t) (spec/41_frame_encoder.md R93): the value is clamped before anything else (R90). -/
def encf (cfg : Config) (v : Int) (t : Bool) : FrameWord := packFrame (BitVec.ofInt 11 (clampNat cfg v)) t

/-- IDLE_FRAME, the Idle/Arm frame: every symbol a "logical zero" (spec/41_frame_encoder.md R95). -/
def idleFrame : FrameWord := 0x0000

/-- VALUE = F[15:5] (spec/30_encoding.md R60, R63). -/
def frameValue (f : FrameWord) : Native := f.extractLsb' 5 11

/-- TELEM = F[4] (spec/30_encoding.md R60, R63). -/
def frameTelem (f : FrameWord) : Bool := f.getLsbD 4

/-- CSUM = F[3:0] (spec/30_encoding.md R60, R63). -/
def frameCsum (f : FrameWord) : BitVec 4 := f.extractLsb' 0 4

/-- FrameValid(F), the receiver's check (spec/30_encoding.md R63). The block never evaluates it (spec/60_exceptions.md R154). -/
abbrev FrameValid (f : FrameWord) : Prop :=
  frameCsum f = f.extractLsb' 12 4 ^^^ f.extractLsb' 8 4 ^^^ f.extractLsb' 4 4

/-- The bit symbol i carries on the wire: F[15 - i] (spec/00_scope.md R13, spec/30_encoding.md R61). -/
def symbolBit (f : FrameWord) (i : Nat) : Bool := f.getLsbD (15 - i)

/-- SYMW(b), the pulse width of a bit in ticks (spec/41_frame_encoder.md R96). -/
def symw (cfg : Config) (b : Bool) : Nat := if b then cfg.w1 else cfg.w0

end Sys2Proof.Machine
end

