-- ==== Sys2Proof/Machine/Ops.lean ====
section
/-!
DEFINITION. The named operations over the registers: register writes, the timer's update, the emitter's sub-steps
(spec/42_pulse_emitter.md R110, R111), the phases 1, 2 and 3 of a cycle (R112, R105, R103), the ports (spec/10_state.md
R35), the illegal command (spec/60_exceptions.md R142) and reset (spec/70_reset_and_hazards.md R160).
-/

namespace Sys2Proof.Machine

/-! ## Register writes (`R <- v`, spec/00_scope.md R12) -/

def State.setCmdHeld (v : Imm) (s : State) : State := { s with cmdHeld := v }

def State.setNative (v : Native) (s : State) : State := { s with native := v }

def State.setFrame (v : FrameWord) (s : State) : State := { s with frame := v }

def State.setMode (v : Mode) (s : State) : State := { s with mode := v }

def State.setPeriod (v : Timer) (s : State) : State := { s with period := v }

def State.setCcrPre (v : Timer) (s : State) : State := { s with ccrPre := v }

def State.setOe (v : Bool) (s : State) : State := { s with oe := v }

def State.setCnt (v : Timer) (s : State) : State := { s with cnt := v }

/-! ## The timer channel -/

/-- UpdateEvent: CCR_ACT <- CCR_PRE (spec/42_pulse_emitter.md R104). -/
def State.updateEvent (s : State) : State := { s with ccrAct := s.ccrPre }

/-! ## The emitter -/

/-- LoadSymbol(i) (spec/42_pulse_emitter.md R111): the statements run in order, so CCR_ACT gets the new CCR_PRE
(spec/00_scope.md R12). -/
def State.loadSymbol (i : SymIndex) (s : State) : State :=
  let s := s.setCcrPre (BitVec.ofNat 16 (symw config (symbolBit s.tx i.toNat)))
  let s := s.setCnt 0
  let s := s.updateEvent
  { s with hold := s.period }

/-- The emitting part of StartEmission(f), for PERIOD ≠ 0: TX <- f; SYM <- 0; BUSY <- 1; LoadSymbol(0)
(spec/42_pulse_emitter.md R110). -/
def State.beginEmission (f : FrameWord) (s : State) : State :=
  State.loadSymbol 0 { s with tx := f, sym := 0, busy := true }

/-- StartEmission(f) (spec/42_pulse_emitter.md R110; flags: spec/60_exceptions.md R143 to R145). -/
def State.startEmission (f : FrameWord) (s : State) : State :=
  let s := if s.period = 0 then s.setErr .period else s
  let s := if s.oe = false then s.setErr .noOe else s
  if s.period ≠ 0 then s.beginEmission f else s

/-- The end of an emission (spec/42_pulse_emitter.md R112, first branch): the compare value is forced to zero and the timer
reloaded. TX keeps the frame just sent. -/
def State.endEmission (s : State) : State :=
  { s with ccrPre := 0, cnt := 0, ccrAct := 0, sym := 0, busy := false }

/-- Phase 1, the sequencer (spec/42_pulse_emitter.md R112). -/
def State.sequencerPhase (s : State) : State :=
  if s.busy = true ∧ s.hold = 0 then
    if s.sym = 15 then s.endEmission else State.loadSymbol (s.sym + 1) { s with sym := s.sym + 1 }
  else s

/-- The pin from the registers phase 1 leaves: OE and (CNT < CCR_ACT) (spec/42_pulse_emitter.md R105). -/
def State.pin (s : State) : Bool := s.oe && decide (s.cnt < s.ccrAct)

/-- Phase 2, the output (spec/42_pulse_emitter.md R105). -/
def State.outputPhase (s : State) : State := { s with dshotOut := s.pin }

/-- The counter's part of phase 3 (spec/42_pulse_emitter.md R103): free-running, wrapping at PERIOD - 1 with an update event,
stopped while PERIOD = 0. -/
def State.tickCounter (s : State) : State :=
  if s.period = 0 then s
  else if s.period - 1 ≤ s.cnt then (s.setCnt 0).updateEvent
  else s.setCnt (s.cnt + 1)

/-- The hold count's part of phase 3 (spec/42_pulse_emitter.md R103). HOLD = 0 with BUSY = 1 reaches no phase 3 of a run: there
the register wraps, DESIGN CHOICE (log entry 9). -/
def State.tickHold (s : State) : State := if s.busy then { s with hold := s.hold - 1 } else s

/-- Phase 3, the counter (spec/42_pulse_emitter.md R103). -/
def State.counterPhase (s : State) : State := s.tickCounter.tickHold

/-- Phases 1, 2 and 3, on the state phase 0 leaves (spec/10_state.md R37). -/
def State.finishCycle (s : State) : State := s.sequencerPhase.outputPhase.counterPhase

/-! ## The ports (spec/10_state.md R35) -/

/-- rst in the coming cycle. -/
def State.rst (s : State) : Bool :=
  match s.host with
  | .reset :: _ => true
  | .idle :: _ | .offer _ :: _ | .offerOnce _ :: _ | [] => false

/-- cmd_word in the coming cycle where cmd_valid = 1; none where cmd_valid = 0. -/
def State.offered (s : State) : Option CmdWord :=
  match s.host with
  | .offer w :: _ => some w
  | .offerOnce w :: _ => some w
  | .reset :: _ | .idle :: _ | [] => none

/-- cmd_valid in the coming cycle. -/
def State.cmdValid (s : State) : Bool := s.offered.isSome

/-- cmd_ready in the coming cycle: NOT BUSY at its start, and 0 in a reset cycle (spec/10_state.md R40,
spec/70_reset_and_hazards.md R160). -/
def State.cmdReady (s : State) : Bool := !s.rst && !s.busy

/-- The word accepted in the coming cycle: cmd_valid = 1 and cmd_ready = 1 (spec/10_state.md R40). -/
def State.accepted (s : State) : Option CmdWord := if s.cmdReady then s.offered else none

/-- The host's script after the coming cycle: an offer that is not accepted is held (spec/10_state.md R40), everything else is
past. -/
def State.hostNext (s : State) : List HostInput :=
  match s.host with
  | [] => []
  | .offer w :: rest => if s.busy then .offer w :: rest else rest
  | .reset :: rest | .idle :: rest | .offerOnce _ :: rest => rest

/-- The state with this cycle's port values taken off the script. -/
def State.takeInput (s : State) : State := { s with host := s.hostNext }

/-- native_out, at the end of the cycle (spec/10_state.md R35). -/
def State.nativeOut (s : State) : Native := s.native

/-- frame_out, at the end of the cycle (spec/10_state.md R35). -/
def State.frameOut (s : State) : FrameWord := s.frame

/-- status_out, at the end of the cycle (spec/10_state.md R35). -/
def State.statusOut (s : State) : BitVec 8 := s.status

/-! ## The illegal command and reset -/

/-- ILLEGAL_COMMAND: setErr(ERR_ILLEGAL) and nothing else (spec/60_exceptions.md R142). -/
def State.illegalCommand (s : State) : State := s.setErr .illegal

/-- A cycle with rst = 1: every register takes its reset value and dshot_out = 0; no command is accepted and phases 1 and 3 do
not run (spec/70_reset_and_hazards.md R160). -/
def State.resetCycle (s : State) : State := { State.reset with host := s.hostNext }

end Sys2Proof.Machine
end

