-- ==== Sys2Proof/Machine/Emitter.lean ====
section
/-!
DEFINITION. The pulse emitter's commands: EMIT and EMITIDLE (spec/42_pulse_emitter.md R113, R114).
-/

namespace Sys2Proof.Machine

/-- EMIT: StartEmission(FRAME) (spec/42_pulse_emitter.md R113). -/
def execEmit (s : State) : Host.Outcome State Fault Refusal := .next (s.startEmission s.frame)

/-- EMITIDLE: StartEmission(IDLE_FRAME); FRAME is not written (spec/42_pulse_emitter.md R114). -/
def execEmitIdle (s : State) : Host.Outcome State Fault Refusal := .next (s.startEmission idleFrame)

end Sys2Proof.Machine
end

