-- ==== Sys2Proof/Machine/Encoder.lean ====
section
/-!
DEFINITION. The frame encoder's command: ENCODE (spec/41_frame_encoder.md R94).
-/

namespace Sys2Proof.Machine

/-- ENCODE v, t: FRAME <- ENCF(sext_32(v), t) (spec/41_frame_encoder.md R94). -/
def execEncode (v : Imm) (t : Bool) (s : State) : Host.Outcome State Fault Refusal :=
  .next (s.setFrame (encf config (sext32 v) t))

end Sys2Proof.Machine
end

