-- ==== Sys2Proof/Machine/Mapper.lean ====
section
/-!
DEFINITION. The throttle mapper's command: MAP (spec/40_throttle_mapper.md R83).
-/

namespace Sys2Proof.Machine

/-- MAP c: NATIVE <- MAPF(sext_32(c)) (spec/40_throttle_mapper.md R83). -/
def execMap (c : Imm) (s : State) : Host.Outcome State Fault Refusal :=
  .next (s.setNative (BitVec.ofInt 11 (mapf config (sext32 c))))

end Sys2Proof.Machine
end

