-- ==== Sys2Proof/Machine/Scheduler.lean ====
section
/-!
DEFINITION. The transmission scheduler's commands: SETCMD and CYCLE (spec/43_scheduler.md R131, R132).
-/

namespace Sys2Proof.Machine

/-- SETCMD c: CMD_HELD <- c, unclamped (spec/43_scheduler.md R131). -/
def execSetCmd (c : Imm) (s : State) : Host.Outcome State Fault Refusal := .next (s.setCmdHeld c)

/-- CYCLE in ARMING: MODE <- 0; StartEmission(IDLE_FRAME) (spec/43_scheduler.md R132). -/
def State.cycleArming (s : State) : State := (s.setMode .arming).startEmission idleFrame

/-- CYCLE in ACTIVE with command c: MODE <- 1; NATIVE <- MAPF(c); FRAME <- ENCF(NATIVE, 0); StartEmission(FRAME)
(spec/43_scheduler.md R132). -/
def State.cycleActive (c : Int) (s : State) : State :=
  let s := s.setMode .active
  let s := s.setNative (BitVec.ofInt 11 (mapf config c))
  let s := s.setFrame (encf config s.native.toNat false)
  s.startEmission s.frame

/-- CYCLE: one control cycle on CMD_HELD (spec/43_scheduler.md R132, R130). -/
def execCycle (s : State) : Host.Outcome State Fault Refusal :=
  .next (if armTest config (sext32 s.cmdHeld) then s.cycleArming else s.cycleActive (sext32 s.cmdHeld))

end Sys2Proof.Machine
end

