-- ==== Sys2Proof/Machine/Timer.lean ====
section
/-!
DEFINITION. The timer channel's commands: SETPERIOD, SETCMP, RELOAD, ENOUT (spec/42_pulse_emitter.md R106 to R109).
-/

namespace Sys2Proof.Machine

/-- SETPERIOD p: PERIOD <- p, at once, with no preload (spec/42_pulse_emitter.md R106). No legal word has p = 0 (log entry 9). -/
def execSetPeriod (p : Timer) (s : State) : Host.Outcome State Fault Refusal := .next (s.setPeriod p)

/-- SETCMP w: CCR_PRE <- w; the pin follows at the next update event (spec/42_pulse_emitter.md R107). -/
def execSetCmp (w : Timer) (s : State) : Host.Outcome State Fault Refusal := .next (s.setCcrPre w)

/-- RELOAD: CNT <- 0; CCR_ACT <- CCR_PRE (spec/42_pulse_emitter.md R108). -/
def execReload (s : State) : Host.Outcome State Fault Refusal := .next (s.setCnt 0).updateEvent

/-- ENOUT: OE <- 1 (spec/42_pulse_emitter.md R109). -/
def execEnOut (s : State) : Host.Outcome State Fault Refusal := .next (s.setOe true)

end Sys2Proof.Machine
end

