-- ==== Sys2Proof/Machine/Dispatch.lean ====
section
/-!
DEFINITION. The meaning of each command, one arm per constructor of Instr (spec/30_encoding.md R66).
-/

namespace Sys2Proof.Machine

def exec (i : Instr) (s : State) : Host.Outcome State Fault Refusal :=
  match i with
  | .map c => Sys2Proof.Machine.execMap c s
  | .encode v t => Sys2Proof.Machine.execEncode v t s
  | .emit => Sys2Proof.Machine.execEmit s
  | .emitIdle => Sys2Proof.Machine.execEmitIdle s
  | .setCmd c => Sys2Proof.Machine.execSetCmd c s
  | .cycle => Sys2Proof.Machine.execCycle s
  | .setPeriod p => Sys2Proof.Machine.execSetPeriod p s
  | .setCmp w => Sys2Proof.Machine.execSetCmp w s
  | .reload => Sys2Proof.Machine.execReload s
  | .enOut => Sys2Proof.Machine.execEnOut s

end Sys2Proof.Machine
end

