-- ==== Sys2Proof/Machine/Cycle.lean ====
section
/-!
DEFINITION. One clock cycle: phase 0, the command (spec/10_state.md R40, R41), and the four phases together (R37).
-/

namespace Sys2Proof.Machine

/-- A command word accepted in phase 0: the command it decodes to, or the illegal command (spec/30_encoding.md R69,
spec/60_exceptions.md R142, R145). -/
def perform (w : CmdWord) (s : State) : Host.Outcome State Fault Refusal :=
  match decode w with
  | .ok i => exec i s
  | .error _ => .next s.illegalCommand

/-- Phase 0 (spec/10_state.md R37, R40): the word accepted in this cycle, if there is one, is performed. -/
def commandPhase (s : State) : Host.Outcome State Fault Refusal :=
  match s.accepted with
  | some w => perform w s.takeInput
  | none => .next s.takeInput

/-- One clock cycle (spec/10_state.md R37): reset alone where rst = 1 (spec/70_reset_and_hazards.md R160), else the phases 0,
1, 2 and 3 in this order. -/
def cycle (s : State) : Host.Outcome State Fault Refusal :=
  if s.rst then .next s.resetCycle
  else
    match commandPhase s with
    | .next t => .next t.finishCycle
    | .fault f => .fault f
    | .refused r => .refused r

/-- One clock cycle of the block as configured: a configuration that is not well-formed is refused (spec/00_scope.md R9; log
entry 7). -/
def configuredCycle (s : State) : Host.Outcome State Fault Refusal :=
  if config.WellFormed then cycle s else .refused .illFormedConfiguration

/-- The host puts a program on the command port: each word is offered until it is accepted, from the cycle after the word
before it was accepted (spec/95_test_vectors.md part 3, spec/10_state.md R40). -/
def State.load (words : List CmdWord) (s : State) : State := { s with host := s.host ++ words.map .offer }

end Sys2Proof.Machine
end

