-- ==== Sys2Proof/Machine/Step.lean ====
section
/-!
DEFINITION. The step: one clock cycle of the block (spec/10_state.md R37, spec/92_eei_decisions.md D3).
-/

namespace Sys2Proof.Machine

/-- One step is one clock cycle of this instance. DEDUCED, safe (log entry 11). -/
def step (s : State) : Host.Outcome State Fault Refusal := configuredCycle s

/-- The state in which the coming cycle accepts the word `w` of `nbits` bits: the block fetches nothing (spec/10_state.md R26),
so "the next instruction" is the word the host offers (R40), put at the head of the script. A word is accepted only while
BUSY = 0, so BUSY is cleared; where it is clear already, nothing but the script changes. DESIGN CHOICE, safe (log entry 2). -/
def State.withFetchWord (s : State) (nbits w : Nat) : State :=
  { s with host := .offer (BitVec.ofNat 64 (w % 2 ^ nbits)) :: s.host, busy := false }

end Sys2Proof.Machine
end

