-- ==== Sys2Proof/Machine/Assembler.lean ====
section
/-!
DEFINITION. The assembler's text form and the pseudo-instructions (spec/30_encoding.md R71, R72). Text is a list of
characters; what R71 leaves open of the spelling is a DESIGN CHOICE (log entry 8).
-/

namespace Sys2Proof.Machine

/-! ## Pseudo-instructions (R72) -/

/-- The pseudo-instructions of spec/30_encoding.md R72. -/
inductive Pseudo where
  /-- `SETUP`. -/
  | setup
  /-- `SEND v`. -/
  | send (v : Imm)
  /-- `SENDT v`. -/
  | sendT (v : Imm)
  /-- `THROTTLE c`. -/
  | throttle (c : Imm)
  /-- `IDLE`. -/
  | idle
  deriving DecidableEq, Repr

/-- Each with its expansion (spec/30_encoding.md R72); SETUP writes the configuration's P_CFG. -/
def Pseudo.expand : Pseudo → List Instr
  | .setup => [.setPeriod (BitVec.ofNat 16 config.pCfg), .enOut]
  | .send v => [.encode v false, .emit]
  | .sendT v => [.encode v true, .emit]
  | .throttle c => [.setCmd c, .cycle]
  | .idle => [.emitIdle]

/-! ## Operands (R71) -/

/-- Why the assembler refuses a line (R71: "An assembler refuses any other operand"). -/
inductive AsmError where
  /-- The first word of the line is no mnemonic of R71 or R72. -/
  | unknownMnemonic
  /-- An operand is no integer of R71. -/
  | notAnInteger
  /-- The mnemonic takes another number of operands. -/
  | operandCount
  /-- The operand is outside the range R71 gives. -/
  | operandRange
  deriving DecidableEq, Repr

/-- A MAP, ENCODE or SETCMD operand must lie in [-2^31, 2^31 - 1] (R71). -/
def signedOperand (x : Int) : Except AsmError Imm :=
  if -2 ^ 31 ≤ x ∧ x ≤ 2 ^ 31 - 1 then .ok (BitVec.ofInt 32 x) else .error .operandRange

/-- A SETPERIOD or SETCMP operand must lie in the range of R67, from `lo` to 2^TMR_W - 1 (R71). -/
def timerOperand (lo : Int) (x : Int) : Except AsmError Timer :=
  if lo ≤ x ∧ x ≤ 2 ^ config.tmrW - 1 then .ok (BitVec.ofInt 16 x) else .error .operandRange

/-- An ENCODE flag must be 0 or 1 (R71). -/
def flagOperand (x : Int) : Except AsmError Bool :=
  if x = 0 then .ok false else if x = 1 then .ok true else .error .operandRange

/-! ## Reading a line -/

def isBlank (c : Char) : Bool := c == ' ' || c == '\t' || c == '\r'

/-- Leading and trailing blanks removed. -/
def trim (cs : List Char) : List Char := ((cs.dropWhile isBlank).reverse.dropWhile isBlank).reverse

/-- The value of a digit, decimal or hexadecimal. -/
def digitValue (c : Char) : Option Nat :=
  if 48 ≤ c.toNat ∧ c.toNat ≤ 57 then some (c.toNat - 48)
  else if 97 ≤ c.toNat ∧ c.toNat ≤ 102 then some (c.toNat - 87)
  else if 65 ≤ c.toNat ∧ c.toNat ≤ 70 then some (c.toNat - 55)
  else none

/-- The number a run of digits writes in a base, after the digits already read. -/
def readDigits (base : Nat) (acc : Nat) : List Char → Option Nat
  | [] => some acc
  | c :: cs =>
    match digitValue c with
    | some d => if d < base then readDigits base (acc * base + d) cs else none
    | none => none

/-- A number of at least one digit. -/
def readNumber (base : Nat) (cs : List Char) : Option Nat := if cs.isEmpty then none else readDigits base 0 cs

/-- An integer: decimal, optionally signed, or hexadecimal with `0x` (R71). -/
def readInteger (cs : List Char) : Except AsmError Int :=
  let n : Option Int :=
    match cs with
    | '0' :: 'x' :: ds => (readNumber 16 ds).map fun n => (n : Int)
    | '-' :: ds => (readNumber 10 ds).map fun n => -(n : Int)
    | '+' :: ds => (readNumber 10 ds).map fun n => (n : Int)
    | ds => (readNumber 10 ds).map fun n => (n : Int)
  match n with
  | some x => .ok x
  | none => .error .notAnInteger

/-- The pieces of a text between commas. -/
def splitCommas : List Char → List (List Char)
  | [] => [[]]
  | c :: cs =>
    match splitCommas cs with
    | [] => [[c]]
    | p :: ps => if c == ',' then [] :: p :: ps else (c :: p) :: ps

/-- The operands of a line, separated by commas (R71); a blank text holds none. -/
def readOperands (cs : List Char) : Except AsmError (List Int) :=
  if (trim cs).isEmpty then .ok [] else (splitCommas cs).mapM fun p => readInteger (trim p)

/-- A mnemonic without an operand. -/
def noOperand (is : List Instr) : List Int → Except AsmError (List Instr)
  | [] => .ok is
  | _ :: _ => .error .operandCount

/-- A mnemonic with one command-sized operand (MAP, SETCMD, SEND, SENDT, THROTTLE). -/
def oneSigned (is : Imm → List Instr) : List Int → Except AsmError (List Instr)
  | [x] => (signedOperand x).map is
  | [] | _ :: _ :: _ => .error .operandCount

/-- SETPERIOD or SETCMP: one timer operand of at least `lo`. -/
def oneTimer (lo : Int) (i : Timer → Instr) : List Int → Except AsmError (List Instr)
  | [x] => (timerOperand lo x).map fun p => [i p]
  | [] | _ :: _ :: _ => .error .operandCount

/-- ENCODE: a value and a flag. -/
def encodeOperands : List Int → Except AsmError (List Instr)
  | [x, t] => (signedOperand x).bind fun v => (flagOperand t).map fun t => [.encode v t]
  | [] | [_] | _ :: _ :: _ :: _ => .error .operandCount

/-- A command or pseudo-instruction from its mnemonic and operands (R71, R72). -/
def instructionsOf (mnemonic : String) (ops : List Int) : Except AsmError (List Instr) :=
  if mnemonic = "MAP" then oneSigned (fun c => [.map c]) ops
  else if mnemonic = "ENCODE" then encodeOperands ops
  else if mnemonic = "EMIT" then noOperand [.emit] ops
  else if mnemonic = "EMITIDLE" then noOperand [.emitIdle] ops
  else if mnemonic = "SETCMD" then oneSigned (fun c => [.setCmd c]) ops
  else if mnemonic = "CYCLE" then noOperand [.cycle] ops
  else if mnemonic = "SETPERIOD" then oneTimer 1 .setPeriod ops
  else if mnemonic = "SETCMP" then oneTimer 0 .setCmp ops
  else if mnemonic = "RELOAD" then noOperand [.reload] ops
  else if mnemonic = "ENOUT" then noOperand [.enOut] ops
  else if mnemonic = "SETUP" then noOperand Pseudo.setup.expand ops
  else if mnemonic = "SEND" then oneSigned (fun v => (Pseudo.send v).expand) ops
  else if mnemonic = "SENDT" then oneSigned (fun v => (Pseudo.sendT v).expand) ops
  else if mnemonic = "THROTTLE" then oneSigned (fun c => (Pseudo.throttle c).expand) ops
  else if mnemonic = "IDLE" then noOperand Pseudo.idle.expand ops
  else .error .unknownMnemonic

/-- One line: a mnemonic, then its operands; a `;` starts a comment that runs to the end of the line (R71). A line without a
mnemonic gives no instruction. -/
def assembleLine (line : List Char) : Except AsmError (List Instr) :=
  let text := trim (line.takeWhile fun c => c != ';')
  if text.isEmpty then .ok []
  else
    let mnemonic := text.takeWhile fun c => !isBlank c
    (readOperands (text.drop mnemonic.length)).bind fun ops => instructionsOf (String.ofList mnemonic) ops

/-- A program, one command a line: the words of its lines in order (R71). -/
def assemble (lines : List (List Char)) : Except AsmError (List CmdWord) :=
  (lines.mapM assembleLine).map fun is => is.flatten.map encode

end Sys2Proof.Machine
end

