-- ==== Sys2Proof/Machine/Timing.lean ====
section
/-!
DEFINITION. The timing table (spec/70_reset_and_hazards.md R171), wall-clock time (R171, spec/92_eei_decisions.md D3), and the
waveform of a frame (spec/42_pulse_emitter.md R115).
-/

namespace Sys2Proof.Machine

/-- The three commands that start an emission (spec/42_pulse_emitter.md R110). -/
def isEmitting : Instr → Bool
  | .emit | .emitIdle | .cycle => true
  | .map _ | .encode _ _ | .setCmd _ | .setPeriod _ | .setCmp _ | .reload | .enOut => false

/-- The frame an emitting command sends from state `s`: FRAME for EMIT, the idle frame for EMITIDLE, and for CYCLE the idle
frame in ARMING and ENCF(MAPF(c), 0) in ACTIVE (spec/42_pulse_emitter.md R113, R114; spec/43_scheduler.md R132). -/
def frameSent (s : State) : Instr → Option FrameWord
  | .emit => some s.frame
  | .emitIdle => some idleFrame
  | .cycle =>
    if sext32 s.cmdHeld ≤ config.cmdMin then some idleFrame
    else some (encf config (mapf config (sext32 s.cmdHeld)) false)
  | .map _ | .encode _ _ | .setCmd _ | .setPeriod _ | .setCmp _ | .reload | .enOut => none

/-- Cycles until the next command can be accepted, after `i` is accepted in state `s` (spec/70_reset_and_hazards.md R171). -/
def cyclesToNextAccept (s : State) (i : Instr) : Nat :=
  if isEmitting i ∧ s.period ≠ 0 then 16 * s.period.toNat + 1 else 1

/-- The level the waveform of frame `f` has `n` cycles after the cycle that started it, with period `p` and the output enabled:
tick n mod p of symbol n div p, and low after the last symbol (spec/42_pulse_emitter.md R115). -/
def waveform (f : FrameWord) (p n : Nat) : Bool :=
  decide (n < 16 * p) && decide (n % p < symw config (symbolBit f (n / p)))

/-- Wall-clock time of a number of cycles, in seconds: cycles / F_TICK, with F_TICK open (spec/70_reset_and_hazards.md R171). -/
def wallClock (cycles : Nat) : Rat := cycles / (Config.fTick : Rat)

end Sys2Proof.Machine
end

