-- ==== Sys2Proof/Safety.lean ====
section
/-!
DEFINITION. What counts as a safe run: the duties the spec lays on software (spec/70_reset_and_hazards.md R162 to R169), and
the invariant of the block that every cycle keeps (spec/10_state.md R23, R24, R27, R28). The block enforces none of the duties.
-/

namespace Sys2Proof.Safety

open Sys2Proof.Machine

/-! ## Duties of software -/

/-- The boot duty: PERIOD = P_CFG and OE = 1 before the first frame (spec/70_reset_and_hazards.md R162 to R164). -/
abbrev Booted (s : State) : Prop := s.period.toNat = config.pCfg ∧ s.oe = true

/-- No sticky error flag is set (spec/60_exceptions.md R141). -/
abbrev NoError (s : State) : Prop := s.errIllegal = false ∧ s.errNoOe = false ∧ s.errPeriod = false

/-- The line is quiet between frames: no emission and no live or waiting compare value (spec/70_reset_and_hazards.md R168,
spec/42_pulse_emitter.md R118). -/
abbrev Quiet (s : State) : Prop := s.busy = false ∧ s.ccrPre = 0 ∧ s.ccrAct = 0

/-- The control-cycle duty: T_CYCLE is at least the frame's 16*P + 1 ticks plus the other commands' cycles
(spec/70_reset_and_hazards.md R166). -/
abbrev ControlCycleFits (p others : Nat) : Prop := 16 * p + 1 + others ≤ Config.tCycle

/-- A command that keeps a quiet line quiet: neither an emission nor a SETCMP with a non-zero value (R168). -/
def keepsQuiet : Instr → Bool
  | .emit | .emitIdle | .cycle => false
  | .setCmp w => w == 0
  | .map _ | .encode _ _ | .setCmd _ | .setPeriod _ | .reload | .enOut => true

/-! ## Terms of claims about emissions -/

/-- The coming cycle accepts a command that starts an emission of frame `f` (spec/42_pulse_emitter.md R110, R113, R114;
spec/43_scheduler.md R132). -/
def StartsEmission (s : State) (f : FrameWord) : Prop :=
  ∃ w i, s.accepted = some w ∧ decode w = .ok i ∧ frameSent s i = some f ∧ s.period ≠ 0

/-- The host asserts rst in none of the coming `n` cycles of the run (spec/70_reset_and_hazards.md R160). A reset that waits in
the script behind a held offer is asserted in a later cycle. -/
def NoReset (n : Nat) (s : State) : Prop :=
  ∀ k t, k < n → Host.Core.run core k s = .next t → t.rst = false

/-- The coming cycle accepts nothing, an illegal word, or a command that keeps a quiet line quiet
(spec/70_reset_and_hazards.md R168). -/
def AcceptsQuietly (s : State) : Prop :=
  ∀ w i, s.accepted = some w → decode w = .ok i → keepsQuiet i = true

/-! ## The invariant -/

/-- NATIVE is "always within range" (spec/10_state.md R23). -/
abbrev NativeInRange (s : State) : Prop := config.natMin ≤ s.native.toNat ∧ (s.native.toNat : Int) ≤ config.natMax

/-- Every frame the block holds or sends passes the receiver's check (spec/10_state.md R24, spec/41_frame_encoder.md R98). -/
abbrev FramesValid (s : State) : Prop := FrameValid s.frame ∧ FrameValid s.tx

/-- The counter counts from 0 to PERIOD - 1, and stands at 0 while PERIOD is not programmed (spec/10_state.md R28). -/
abbrev CounterInRange (s : State) : Prop := (s.period = 0 → s.cnt = 0) ∧ (s.period ≠ 0 → s.cnt < s.period)

/-- What holds of the sequencer at the end of every cycle (spec/10_state.md R27): while BUSY = 1 the period is programmed,
HOLD ≤ PERIOD - 1, CNT and HOLD count the same period (spec/42_pulse_emitter.md R115), and CCR_PRE = CCR_ACT = the width of
symbol SYM of TX; while BUSY = 0, SYM = 0 and HOLD = 0. -/
abbrev SequencerConsistent (s : State) : Prop :=
  (s.busy = true →
    s.period ≠ 0 ∧ s.hold ≤ s.period - 1 ∧
    (s.cnt.toNat + s.hold.toNat = s.period.toNat ∨ s.cnt = 0 ∧ s.hold = 0) ∧
    s.ccrPre = s.ccrAct ∧ s.ccrAct = BitVec.ofNat 16 (symw config (symbolBit s.tx s.sym.toNat))) ∧
  (s.busy = false → s.sym = 0 ∧ s.hold = 0)

/-- The invariant of the block. -/
structure Inv (s : State) : Prop where
  native : NativeInRange s
  frames : FramesValid s
  counter : CounterInRange s
  sequencer : SequencerConsistent s

end Sys2Proof.Safety
end

