-- ==== Sys2Proof/Certificates/Slice0/Obligations.lean ====
section
/-!
DEFINITION. The statements about the block, from the numbered rules of spec/.
-/

open Sys2Proof Sys2Proof.Machine Sys2Proof.Safety

/-! ## Encoding -/

/-- The words of spec/30_encoding.md R71's table decode to the commands beside them. -/
def Obligations.SampleWordsDecode : Prop :=
  decode 0x10000000000000F0 = .ok (.setPeriod 240) ∧ decode 0x1300000000000000 = .ok .enOut ∧
  decode 0x01000000000005DC = .ok (.map 1500) ∧ decode 0x01000000FFFFFFFF = .ok (.map (-1)) ∧
  decode 0x0200000000000418 = .ok (.encode 1048 false) ∧ decode 0x02000001000007FF = .ok (.encode 2047 true) ∧
  decode 0x0300000000000000 = .ok .emit ∧ decode 0x0400000000000000 = .ok .emitIdle ∧
  decode 0x05000000000005DC = .ok (.setCmd 1500) ∧ decode 0x0600000000000000 = .ok .cycle ∧
  decode 0x110000000000003C = .ok (.setCmp 60) ∧ decode 0x1200000000000000 = .ok .reload

/-- Decoding the word of a well-formed command gives the command back, with every operand at every value the encoding admits
(spec/30_encoding.md R64 to R66). -/
def Obligations.DecodeOfEncode : Prop :=
  ∀ i : Instr, i.WellFormed → decode (encode i) = .ok i

/-- A word that decodes is the word of the command it decodes to, and that command is well-formed: no two words are one command
(spec/30_encoding.md R64 to R67). -/
def Obligations.EncodeOfDecode : Prop :=
  ∀ (w : CmdWord) (i : Instr), decode w = .ok i → i.WellFormed ∧ encode i = w

/-- spec/30_encoding.md R67: a word decodes exactly when every condition (a) to (f) holds. -/
def Obligations.DecodesExactlyTheLegalWords : Prop :=
  ∀ w : CmdWord, (∃ i, decode w = .ok i) ↔ LegalWord w

/-- spec/30_encoding.md R69: every word is one command or illegal, as its row of the table and the operand conditions say; no
word matches two rows. -/
def Obligations.OpcodeTableDecidesEveryWord : Prop :=
  (∀ w i, decode w = .ok i → i.row ∈ opcodeTable ∧ i.row.Matches w) ∧
  (∀ r ∈ opcodeTable, ∀ r' ∈ opcodeTable, ∀ w, r.Matches w → r'.Matches w → r = r') ∧
  (∀ w, (∃ i, decode w = .ok i) ↔
    ∃ r ∈ opcodeTable, r.Matches w ∧ (r.mnemonic = "SETPERIOD" → immLowOf w ≠ 0)) ∧
  (∀ w, (∃ i, decode w = .ok i ∧ ∀ j, decode w = .ok j → j = i) ∨ ∃ e, decode w = .error e)

/-! ## A cycle -/

/-- A step runs the decoded command: where the block accepts a word that decodes to `i`, the step is `exec i` on the state with
the cycle's input taken, then phases 1 to 3; where it accepts none, and rst = 0, phases 1 to 3 alone (spec/10_state.md R37, R40,
R41). -/
def Obligations.StepRunsDecodedCommand : Prop :=
  (∀ (s : State) (w : CmdWord) (i : Instr), s.accepted = some w → decode w = .ok i →
    step s =
      match exec i s.takeInput with
      | .next t => .next t.finishCycle
      | .fault f => .fault f
      | .refused r => .refused r) ∧
  (∀ s : State, s.rst = false → s.accepted = none → step s = .next s.takeInput.finishCycle)

/-- spec/60_exceptions.md R142: an accepted word that breaks R67 is consumed, sets ERR_ILLEGAL in phase 0 and changes nothing
else; phases 1 to 3 then run as in every cycle. -/
def Obligations.IllegalWordOnlySetsItsFlag : Prop :=
  ∀ (s : State) (w : CmdWord), s.accepted = some w → ¬ LegalWord w →
    commandPhase s = .next { s with errIllegal := true, host := s.host.tail } ∧
    step s = .next ({ s with errIllegal := true, host := s.host.tail } : State).finishCycle

/-- spec/10_state.md R40: a word is accepted exactly when it is offered and cmd_ready = 1; while BUSY = 1 nothing the host
offers has any effect, and an offered word is held. -/
def Obligations.HandshakeHoldsCommandsWhileBusy : Prop :=
  (∀ (s : State) (w : CmdWord), s.accepted = some w ↔ s.offered = some w ∧ s.cmdReady = true) ∧
  (∀ s : State, s.rst = false → s.cmdReady = !s.busy) ∧
  (∀ s : State, s.rst = false → s.busy = true → step s = .next s.takeInput.finishCycle) ∧
  (∀ (s t : State) (w : CmdWord) (rest : List HostInput), s.busy = true → s.host = .offer w :: rest →
    step s = .next t → t.host = .offer w :: rest) ∧
  (∀ (s t t' : State) (h : List HostInput), s.busy = true → s.rst = false →
    State.rst { s with host := h } = false →
    step s = .next t → step { s with host := h } = .next t' →
    { t' with host := [] } = { t with host := [] })

/-- spec/70_reset_and_hazards.md R160: one or more cycles with rst = 1, from any state, leave every register at its reset value,
accept nothing and hold the pin low. -/
def Obligations.ResetCyclesGiveTheResetState : Prop :=
  ∀ (s : State) (n : Nat) (rest : List HostInput), s.host = List.replicate (n + 1) .reset ++ rest →
    s.cmdReady = false ∧ s.accepted = none ∧
    ∃ t, Host.Core.run core (n + 1) s = .next t ∧
      t = { cmdHeld := 1000, native := 48, frame := 0x0000, mode := .arming, tx := 0x0000, sym := 0, hold := 0,
            busy := false, cnt := 0, period := 0, ccrPre := 0, ccrAct := 0, oe := false, errIllegal := false,
            errNoOe := false, errPeriod := false, dshotOut := false, host := rest } ∧
      t.statusOut = 0x00 ∧ t.nativeOut = 48 ∧ t.frameOut = 0x0000 ∧ { t with host := [] } = State.reset

/-! ## Results of the commands, each with its frame: nothing else changes -/

/-- MAP (spec/40_throttle_mapper.md R83): NATIVE <- MAPF(c), held whole in 11 bits, and no other register changes. -/
def Obligations.MapResult : Prop :=
  ∀ (c : Imm) (s : State), ∃ v : Native,
    exec (.map c) s = .next { s with native := v } ∧ (v.toNat : Int) = mapf config c.toInt ∧
    (c.toInt < 1000 → v = 48) ∧ (2000 < c.toInt → v = 2047) ∧ (c = 1500 → v = 1048)

/-- ENCODE (spec/41_frame_encoder.md R94): FRAME <- ENCF(v, t), and no other register changes. -/
def Obligations.EncodeResult : Prop :=
  ∀ (v : Imm) (t : Bool) (s : State),
    exec (.encode v t) s = .next { s with frame := encf config v.toInt t } ∧
    (v.toInt < 48 → encf config v.toInt t = if t then 0x0617 else 0x0606) ∧
    (2047 < v.toInt → encf config v.toInt t = if t then 0xFFFF else 0xFFEE) ∧
    (v = 1024 → t = false → encf config v.toInt t = 0x8008)

/-- EMIT (spec/42_pulse_emitter.md R113): with PERIOD ≠ 0 it starts the emission of FRAME, first symbol loaded; with PERIOD = 0
it only sets the flags. -/
def Obligations.EmitResult : Prop :=
  ∀ s : State,
    (s.period ≠ 0 → exec .emit s =
      .next { s with tx := s.frame, sym := 0, busy := true,
                     ccrPre := if s.frame.getLsbD 15 then 180 else 90, cnt := 0,
                     ccrAct := if s.frame.getLsbD 15 then 180 else 90, hold := s.period,
                     errNoOe := s.errNoOe || !s.oe }) ∧
    (s.period = 0 → exec .emit s = .next { s with errPeriod := true, errNoOe := s.errNoOe || !s.oe })

/-- EMITIDLE (spec/42_pulse_emitter.md R114): as EMIT with the idle frame 0x0000; FRAME is not written. -/
def Obligations.EmitIdleResult : Prop :=
  ∀ s : State,
    (s.period ≠ 0 → exec .emitIdle s =
      .next { s with tx := 0x0000, sym := 0, busy := true, ccrPre := 90, cnt := 0, ccrAct := 90, hold := s.period,
                     errNoOe := s.errNoOe || !s.oe }) ∧
    (s.period = 0 → exec .emitIdle s = .next { s with errPeriod := true, errNoOe := s.errNoOe || !s.oe })

/-- SETCMD (spec/43_scheduler.md R131): CMD_HELD <- c, unclamped, and no other register changes; MODE in particular stays. -/
def Obligations.SetCmdResult : Prop :=
  ∀ (c : Imm) (s : State), exec (.setCmd c) s = .next { s with cmdHeld := c }

/-- CYCLE (spec/43_scheduler.md R132): with CMD_HELD ≤ CMD_MIN, MODE <- ARMING and the idle frame is sent, NATIVE and FRAME not
written; above it, MODE <- ACTIVE, NATIVE <- MAPF(CMD_HELD), FRAME <- ENCF(NATIVE, 0) and FRAME is sent. With PERIOD = 0 those
registers are written and nothing is sent. -/
def Obligations.CycleResult : Prop :=
  ∀ (s : State) (v : Native) (f : FrameWord), (v.toNat : Int) = mapf config s.cmdHeld.toInt → f = encf config v.toNat false →
    (s.cmdHeld.toInt ≤ 1000 → s.period ≠ 0 → exec .cycle s =
      .next { s with mode := .arming, tx := 0x0000, sym := 0, busy := true, ccrPre := 90, cnt := 0, ccrAct := 90,
                     hold := s.period, errNoOe := s.errNoOe || !s.oe }) ∧
    (s.cmdHeld.toInt ≤ 1000 → s.period = 0 → exec .cycle s =
      .next { s with mode := .arming, errPeriod := true, errNoOe := s.errNoOe || !s.oe }) ∧
    (1000 < s.cmdHeld.toInt → s.period ≠ 0 → exec .cycle s =
      .next { s with mode := .active, native := v, frame := f, tx := f, sym := 0, busy := true,
                     ccrPre := if f.getLsbD 15 then 180 else 90, cnt := 0,
                     ccrAct := if f.getLsbD 15 then 180 else 90, hold := s.period, errNoOe := s.errNoOe || !s.oe }) ∧
    (1000 < s.cmdHeld.toInt → s.period = 0 → exec .cycle s =
      .next { s with mode := .active, native := v, frame := f, errPeriod := true, errNoOe := s.errNoOe || !s.oe })

/-- SETPERIOD (spec/42_pulse_emitter.md R106): PERIOD <- p at once, and no other register changes in phase 0.
p = 0, which no legal word has, is the model's choice (log entry 9). -/
def Obligations.SetPeriodResult : Prop :=
  ∀ (p : Timer) (s : State), exec (.setPeriod p) s = .next { s with period := p }

/-- SETCMP (spec/42_pulse_emitter.md R107): CCR_PRE <- w, and no other register changes; CCR_ACT in particular stays. -/
def Obligations.SetCmpResult : Prop :=
  ∀ (w : Timer) (s : State), exec (.setCmp w) s = .next { s with ccrPre := w }

/-- RELOAD (spec/42_pulse_emitter.md R108): CNT <- 0; CCR_ACT <- CCR_PRE, and no other register changes. -/
def Obligations.ReloadResult : Prop :=
  ∀ s : State, exec .reload s = .next { s with cnt := 0, ccrAct := s.ccrPre }

/-- ENOUT (spec/42_pulse_emitter.md R109): OE <- 1, STATUS bit 2 becomes 1, and no other register changes. -/
def Obligations.EnOutResult : Prop :=
  ∀ s : State, ∃ t, exec .enOut s = .next t ∧ t = { s with oe := true } ∧ t.status.getLsbD 2 = true

/-! ## The throttle mapper -/

/-- spec/40_throttle_mapper.md R81: for every well-formed configuration MAPF is the integer form the rule gives, and that is the
exact rational rescale rounded half up, round(x) = floor(x + 1/2), of a value x between 0 and R; the numerator stays below 2^45, and is at most 3,999,000 at the instance. -/
def Obligations.MapperRoundsHalfUp : Prop :=
  (∀ (cfg : Config), cfg.WellFormed → ∀ c : Int,
    let c' := clampCmd cfg c
    let d := cfg.cmdMax - cfg.cmdMin
    let r := cfg.natMax - cfg.natMin
    let x : ℚ := (c' - cfg.cmdMin : ℚ) / d * r
    mapf cfg c = cfg.natMin + (2 * (c' - cfg.cmdMin) * r + d) / (2 * d) ∧
    mapf cfg c = ⌊x + cfg.natMin + 1 / 2⌋ ∧ 0 ≤ x ∧ x ≤ r ∧
    0 ≤ 2 * (c' - cfg.cmdMin) * r + d ∧ 2 * (c' - cfg.cmdMin) * r + d ≤ 2 * d * r + d ∧ 2 * d * r + d < 2 ^ 45) ∧
  2 * (config.cmdMax - config.cmdMin) * (config.natMax - config.natMin) + (config.cmdMax - config.cmdMin) = 3999000

/-- spec/40_throttle_mapper.md R82 (a) to (f): range, ends, clamping, order, one-to-one at the instance, totality. -/
def Obligations.MapperRangeEndsAndOrder : Prop :=
  (∀ (cfg : Config), cfg.WellFormed →
    (∀ c, cfg.natMin ≤ mapf cfg c ∧ mapf cfg c ≤ cfg.natMax) ∧
    (mapf cfg cfg.cmdMin = cfg.natMin ∧ mapf cfg cfg.cmdMax = cfg.natMax) ∧
    (∀ c, c < cfg.cmdMin → mapf cfg c = mapf cfg cfg.cmdMin) ∧
    (∀ c, cfg.cmdMax < c → mapf cfg c = mapf cfg cfg.cmdMax) ∧
    (∀ c₁ c₂, c₁ ≤ c₂ → mapf cfg c₁ ≤ mapf cfg c₂)) ∧
  (mapf config 1000 = 48 ∧ mapf config 2000 = 2047) ∧
  (∀ c₁ c₂, 1000 ≤ c₁ → c₁ ≤ 2000 → 1000 ≤ c₂ → c₂ ≤ 2000 → mapf config c₁ = mapf config c₂ → c₁ = c₂) ∧
  (∀ (c : Imm) (s : State), ∃ t, exec (.map c) s = .next t ∧ t.status = s.status)

/-- spec/40_throttle_mapper.md R84: at the instance the only command whose rescaled value x lies exactly half-way, 2 * x an odd
integer, is 1500; it is the only one at which the mapper differs from rounding half down, ceil(x + NAT_MIN - 1/2); and it rounds
up, to 1048. -/
def Obligations.MapperOnlyTie : Prop :=
  (∀ c : Int,
    let x : ℚ := (clampCmd config c - config.cmdMin : ℚ) * (config.natMax - config.natMin : ℤ) /
      (config.cmdMax - config.cmdMin : ℤ)
    ((∃ k : ℤ, 2 * x = 2 * k + 1) ↔ c = 1500) ∧
    (mapf config c ≠ ⌈x + config.natMin - 1 / 2⌉ ↔ c = 1500)) ∧
  mapf config 1500 = 1048

/-! ## The frame encoder -/

/-- spec/41_frame_encoder.md R90 to R93: in integers, ENCF(v, t) = (Q << 4) | CSUM with v' the clamped value, Q = (v' << 1) | t
and CSUM the xor of Q's nibbles. -/
def Obligations.EncoderFrameLayout : Prop :=
  (∀ (cfg : Config), cfg.WellFormed → ∀ (v : Int) (t : Bool), ∃ v' q : Nat,
    (v' : Int) = clamp v cfg.natMin cfg.natMax ∧
    q = (v' <<< 1 ||| t.toNat) ∧
    (encf cfg v t).toNat = (q <<< 4 ||| ((q ^^^ q >>> 4 ^^^ q >>> 8) &&& 0xF)) ∧
    (frameValue (encf cfg v t)).toNat = v' ∧ frameTelem (encf cfg v t) = t) ∧
  csumf 0 false = 0 ∧ csumf 2047 true = 0xF ∧ csumf 2047 false = 0xE

/-- spec/41_frame_encoder.md R97: ENCF is one-to-one on [NAT_MIN, NAT_MAX] x {0, 1}. -/
def Obligations.EncoderIsOneToOne : Prop :=
  ∀ (cfg : Config), cfg.WellFormed → ∀ (v₁ v₂ : Int) (t₁ t₂ : Bool),
    cfg.natMin ≤ v₁ → v₁ ≤ cfg.natMax → cfg.natMin ≤ v₂ → v₂ ≤ cfg.natMax →
    encf cfg v₁ t₁ = encf cfg v₂ t₂ → v₁ = v₂ ∧ t₁ = t₂

/-- spec/41_frame_encoder.md R98: every frame of the encoder passes the receiver's check, so does the idle frame, and so does
every frame an emission sends from a state that meets the invariant. The encoder never builds the idle frame (R95). -/
def Obligations.SentFramesPassTheCheck : Prop :=
  (∀ (cfg : Config) (v : Int) (t : Bool), FrameValid (encf cfg v t)) ∧ FrameValid idleFrame ∧
  (∀ (v : Int) (t : Bool), encf config v t ≠ idleFrame) ∧
  (∀ (s : State) (f : FrameWord), Inv s → StartsEmission s f → FrameValid f)

/-! ## The timer channel and the emitter -/

/-- spec/42_pulse_emitter.md R111: LoadSymbol(i) gives CCR_PRE and CCR_ACT the width of bit TX[15 - i], CNT 0 and HOLD the
period, and changes nothing else. -/
def Obligations.LoadSymbolRule : Prop :=
  ∀ (i : SymIndex) (s : State), ∃ w : Timer,
    w.toNat = (if s.tx.getLsbD (15 - i.toNat) then config.w1 else config.w0) ∧
    State.loadSymbol i s = { s with ccrPre := w, cnt := 0, ccrAct := w, hold := s.period }

/-- spec/42_pulse_emitter.md R110: StartEmission(f) in its four cases. -/
def Obligations.StartEmissionRule : Prop :=
  ∀ (f : FrameWord) (s : State),
    (s.period = 0 → s.oe = true → s.startEmission f = { s with errPeriod := true }) ∧
    (s.period = 0 → s.oe = false → s.startEmission f = { s with errPeriod := true, errNoOe := true }) ∧
    (s.period ≠ 0 → s.oe = true →
      s.startEmission f = State.loadSymbol 0 { s with tx := f, sym := 0, busy := true }) ∧
    (s.period ≠ 0 → s.oe = false →
      s.startEmission f = State.loadSymbol 0 { s with errNoOe := true, tx := f, sym := 0, busy := true })

/-- spec/42_pulse_emitter.md R112: phase 1 moves to the next symbol or ends the emission exactly when BUSY = 1 and HOLD = 0. -/
def Obligations.SequencerRule : Prop :=
  ∀ s : State,
    (s.busy = true → s.hold = 0 → s.sym = 15 →
      s.sequencerPhase = { s with ccrPre := 0, cnt := 0, ccrAct := 0, sym := 0, busy := false }) ∧
    (s.busy = true → s.hold = 0 → s.sym ≠ 15 →
      s.sequencerPhase = State.loadSymbol (s.sym + 1) { s with sym := s.sym + 1 }) ∧
    (s.busy = false ∨ s.hold ≠ 0 → s.sequencerPhase = s)

/-- spec/42_pulse_emitter.md R103: phase 3 counts up, wraps with an update event when CNT ≥ PERIOD - 1, stands still while
PERIOD = 0, whatever OE and BUSY are, and counts HOLD down while BUSY = 1; HOLD never underflows after phase 1.
The first part's HOLD - 1 at HOLD = 0, which no run reaches, is the model's choice (log entry 9). -/
def Obligations.CounterRule : Prop :=
  (∀ s : State, ∃ h : Timer, h = (if s.busy then s.hold - 1 else s.hold) ∧
    (s.period = 0 → s.counterPhase = { s with hold := h }) ∧
    (s.period ≠ 0 → s.period.toNat - 1 ≤ s.cnt.toNat →
      s.counterPhase = { s with cnt := 0, ccrAct := s.ccrPre, hold := h }) ∧
    (s.period ≠ 0 → s.cnt.toNat < s.period.toNat - 1 →
      ∃ c : Timer, c.toNat = s.cnt.toNat + 1 ∧ s.counterPhase = { s with cnt := c, hold := h })) ∧
  (∀ s : State, (s.busy = true → s.period ≠ 0) → s.sequencerPhase.busy = true → 1 ≤ s.sequencerPhase.hold.toNat)

/-- spec/42_pulse_emitter.md R105: the pin of a cycle is OE and (CNT < CCR_ACT), from the registers phase 1 leaves; it is low
with CCR_ACT = 0 or OE = 0, and high with OE = 1 and CCR_ACT ≥ PERIOD while CNT < PERIOD. -/
def Obligations.PinRule : Prop :=
  ∀ s t : State, s.rst = false → step s = .next t →
    ∃ u, commandPhase s = .next u ∧
      let v := u.sequencerPhase
      (t.dshotOut = true ↔ v.oe = true ∧ v.cnt.toNat < v.ccrAct.toNat) ∧
      (v.ccrAct = 0 → t.dshotOut = false) ∧ (v.oe = false → t.dshotOut = false) ∧
      (v.oe = true → v.period ≤ v.ccrAct → v.cnt < v.period → t.dshotOut = true)

/-- spec/10_state.md R38: phases 0 and 1 never both change a register in one cycle. -/
def Obligations.PhasesZeroAndOneDoNotOverlap : Prop :=
  ∀ s : State, s.rst = false →
    (s.busy = true → s.accepted = none ∧ commandPhase s = .next s.takeInput) ∧
    (s.busy = false → ∀ u, commandPhase s = .next u → u.sequencerPhase = u) ∧
    (s.busy = false → ∀ u, commandPhase s = .next u → u.busy = true → u.hold = u.period ∧ 1 ≤ u.hold.toNat) ∧
    (s.sequencerPhase ≠ s → s.busy = true ∧ s.hold = 0)

/-- SETCMP's latency (spec/70_reset_and_hazards.md R167): the pin of the accepting cycle does not depend on the value, which
reaches CCR_ACT only at a wrap; RELOAD applies it in its own cycle. -/
def Obligations.CompareWriteLatency : Prop :=
  (∀ (s t : State) (w : CmdWord) (v : Timer), s.accepted = some w → decode w = .ok (.setCmp v) → step s = .next t →
    t.ccrPre = v ∧ t.dshotOut = (s.oe && decide (s.cnt < s.ccrAct)) ∧
    t.ccrAct = if s.period ≠ 0 ∧ s.period.toNat - 1 ≤ s.cnt.toNat then v else s.ccrAct) ∧
  (∀ (s t : State) (w : CmdWord), s.accepted = some w → decode w = .ok .reload → step s = .next t →
    t.ccrAct = s.ccrPre ∧ t.dshotOut = (s.oe && decide (0 < s.ccrPre)))

/-- SETPERIOD over a running counter (spec/70_reset_and_hazards.md R169): with CNT ≥ p - 1 the counter wraps in the accepting
cycle with an update event; below, it counts on. It is not accepted during an emission. -/
def Obligations.PeriodWriteOverRunningCounter : Prop :=
  ∀ (s t : State) (w : CmdWord) (p : Timer), s.accepted = some w → decode w = .ok (.setPeriod p) → step s = .next t →
    s.busy = false ∧ t.period = p ∧
    (p.toNat - 1 ≤ s.cnt.toNat → t.cnt = 0 ∧ t.ccrAct = s.ccrPre) ∧
    (s.cnt.toNat < p.toNat - 1 → t.cnt.toNat = s.cnt.toNat + 1 ∧ t.ccrAct = s.ccrAct)

/-! ## Emissions -/

/-- spec/42_pulse_emitter.md R115: after a cycle t0 that starts the emission of `f` with PERIOD = P and OE = 1, and until a
reset, the pin of cycle t0 + i*P + j is high exactly when j < SYMW(f[15 - i]), and low in cycle t0 + 16*P. -/
def Obligations.EmissionWaveform : Prop :=
  ∀ (s : State) (f : FrameWord), StartsEmission s f → s.oe = true → NoReset (16 * s.period.toNat + 1) s →
    (∀ i j : Nat, i < 16 → j < s.period.toNat →
      ∃ t, Host.Core.run core (i * s.period.toNat + j + 1) s = .next t ∧
        (t.dshotOut = true ↔ j < if f.getLsbD (15 - i) then config.w1 else config.w0)) ∧
    ∃ t, Host.Core.run core (16 * s.period.toNat + 1) s = .next t ∧ t.dshotOut = false

/-- spec/42_pulse_emitter.md R116: BUSY is 1 at the end of cycles t0 to t0 + 16*P - 1 and 0 at the end of t0 + 16*P; no command
is accepted in between, and the cycle t0 + 16*P + 1 is the first that can accept one. The symbols take 16*P ticks: 3840 at P = 240, which are
3840 / F_TICK seconds whatever F_TICK is (log entry 5). -/
def Obligations.EmissionDuration : Prop :=
  ∀ (s : State) (f : FrameWord), StartsEmission s f → NoReset (16 * s.period.toNat + 1) s →
    (∀ k : Nat, k < 16 * s.period.toNat →
      ∃ t, Host.Core.run core (k + 1) s = .next t ∧ t.busy = true ∧ t.accepted = none) ∧
    (∃ t, Host.Core.run core (16 * s.period.toNat + 1) s = .next t ∧ t.busy = false ∧
      (t.rst = false → t.cmdReady = true)) ∧
    (s.period = 240 →
      16 * s.period.toNat = 3840 ∧ wallClock (16 * s.period.toNat) = 3840 / (Config.fTick : Rat))

/-- spec/42_pulse_emitter.md R117: with OE = 0 the emission has the same timing, the pin is low in every cycle of it, OE stays 0
and ERR_NO_OE is set. -/
def Obligations.EmissionWithoutOutput : Prop :=
  ∀ (s : State) (f : FrameWord), StartsEmission s f → s.oe = false → NoReset (16 * s.period.toNat + 1) s →
    ∀ k : Nat, k ≤ 16 * s.period.toNat →
      ∃ t, Host.Core.run core (k + 1) s = .next t ∧ t.dshotOut = false ∧ t.oe = false ∧ t.errNoOe = true ∧
        (t.busy = true ↔ k < 16 * s.period.toNat)

/-- spec/42_pulse_emitter.md R118: the cycle in which an emission ends leaves CCR_PRE = CCR_ACT = 0 and the pin low; from such
a state a cycle keeps it so unless it accepts a SETCMP with a non-zero value or an emitting command, a reset cycle too; and so does
a run, until its first cycle that accepts one. A compare value written over such a state waits: whatever CCR_PRE is, a cycle that
accepts no RELOAD and no emitting command has the pin low, and leaves CCR_ACT = 0 unless the counter wraps in it, which applies
CCR_PRE from the next cycle on. -/
def Obligations.LineQuietAfterEmission : Prop :=
  (∀ s t : State, s.busy = true → s.rst = false → step s = .next t → t.busy = false → Quiet t ∧ t.dshotOut = false) ∧
  (∀ s t : State, Quiet s → AcceptsQuietly s → step s = .next t → Quiet t ∧ t.dshotOut = false) ∧
  (∀ (n : Nat) (s : State), Quiet s → (∀ k u, k < n → Host.Core.run core k s = .next u → AcceptsQuietly u) →
    ∃ t, Host.Core.run core n s = .next t ∧ Quiet t ∧ (0 < n → t.dshotOut = false)) ∧
  (∀ s t : State, s.busy = false → s.ccrAct = 0 →
    (∀ w i, s.accepted = some w → decode w = .ok i → i ≠ .reload ∧ isEmitting i = false) → step s = .next t →
    t.busy = false ∧ t.dshotOut = false ∧
    (t.ccrAct = 0 ∨
      s.rst = false ∧ t.period ≠ 0 ∧ t.period.toNat - 1 ≤ s.cnt.toNat ∧ t.cnt = 0 ∧ t.ccrAct = t.ccrPre))

/-- spec/42_pulse_emitter.md R120: during an emission no command is accepted, each symbol is held to its end, the symbols follow
one another, and only the end of symbol 15 or a reset clears BUSY; a reset stops it at once.
At PERIOD = 0, which no emission of a run has, HOLD after a load is the model's choice (log entry 9). -/
def Obligations.EmissionCannotBeCancelled : Prop :=
  ∀ s t : State, s.busy = true → step s = .next t →
    s.accepted = none ∧
    (t.busy = false → s.rst = true ∨ (s.sym = 15 ∧ s.hold = 0)) ∧
    (s.rst = true → t.busy = false ∧ t.dshotOut = false) ∧
    (s.rst = false → t.tx = s.tx ∧ t.period = s.period ∧
      (s.hold ≠ 0 → t.busy = true ∧ t.sym = s.sym ∧ t.hold = s.hold - 1) ∧
      (s.hold = 0 → s.sym ≠ 15 → t.busy = true ∧ t.sym = s.sym + 1 ∧ t.hold = s.period - 1))

/-! ## The scheduler -/

/-- spec/43_scheduler.md R130: ArmTest(c) holds exactly when CLAMP_CMD(c) = CMD_MIN, that is when c ≤ CMD_MIN; otherwise
CLAMP_CMD(c) > CMD_MIN; CYCLE puts MODE in ARMING exactly when it holds of CMD_HELD. -/
def Obligations.ArmTestIsAtOrBelowMinimum : Prop :=
  (∀ (cfg : Config), cfg.WellFormed → ∀ c : Int,
    (armTest cfg c = true ↔ clampCmd cfg c = cfg.cmdMin) ∧ (armTest cfg c = true ↔ c ≤ cfg.cmdMin) ∧
    (armTest cfg c = false ↔ cfg.cmdMin < clampCmd cfg c)) ∧
  (∀ s t : State, exec .cycle s = .next t →
    (t.mode = .arming ↔ armTest config s.cmdHeld.toInt = true) ∧
    (t.mode = .active ↔ armTest config s.cmdHeld.toInt = false))

/-- spec/43_scheduler.md R133, R134: the mode a CYCLE selects and the frame it sends depend on CMD_HELD alone, not on MODE or any
earlier command; so with CMD_HELD unchanged two CYCLEs send bit-identical frames. -/
def Obligations.SchedulerIsLevelTriggered : Prop :=
  (∀ s₁ s₂ t₁ t₂ : State, s₁.cmdHeld = s₂.cmdHeld → exec .cycle s₁ = .next t₁ → exec .cycle s₂ = .next t₂ →
    t₁.mode = t₂.mode ∧ (s₁.period ≠ 0 → s₂.period ≠ 0 → t₁.tx = t₂.tx) ∧
    (t₁.mode = .active → t₁.native = t₂.native ∧ t₁.frame = t₂.frame)) ∧
  (∀ s t : State, exec .cycle s = .next t → t.cmdHeld = s.cmdHeld ∧ (t.mode = .active ↔ 1000 < s.cmdHeld.toInt))

/-! ## Errors, flags and whole-machine rules -/

/-- spec/60_exceptions.md R141: setErr sets its flag and no other, in its STATUS bit; outside reset no step clears a flag, reset
clears all; and no step reads one: states that differ in flags alone step to states that differ in flags alone. -/
def Obligations.ErrorFlagsAreStickyAndUnread : Prop :=
  (∀ (e e' : ErrFlag) (s : State), (s.setErr e).errFlag e' = (s.errFlag e' || e == e') ∧
    s.status.getLsbD e.statusBit = s.errFlag e) ∧
  (ErrFlag.code .illegal = 1 ∧ ErrFlag.code .noOe = 2 ∧ ErrFlag.code .period = 3) ∧
  (∀ (e : ErrFlag) (s t : State), step s = .next t → s.rst = false → s.errFlag e = true → t.errFlag e = true) ∧
  (∀ (e : ErrFlag) (s t : State), step s = .next t → s.rst = true → t.errFlag e = false) ∧
  (∀ (a b c : Bool) (s t t' : State), step s = .next t →
    step { s with errIllegal := a, errNoOe := b, errPeriod := c } = .next t' →
    { t' with errIllegal := false, errNoOe := false, errPeriod := false } =
      { t with errIllegal := false, errNoOe := false, errPeriod := false })

/-- spec/60_exceptions.md R144: an emitting command with PERIOD = 0 sets ERR_PERIOD and starts no emission: BUSY, TX, SYM, HOLD,
the timer and the pin are unchanged, and CYCLE still writes MODE, NATIVE and FRAME; and only a reset makes a programmed PERIOD 0. -/
def Obligations.PeriodNotSetRefusesEmission : Prop :=
  (∀ (i : Instr) (s t : State), isEmitting i = true → s.period = 0 → exec i s = .next t →
    t.errPeriod = true ∧ t.busy = s.busy ∧ t.tx = s.tx ∧ t.sym = s.sym ∧ t.hold = s.hold ∧ t.cnt = s.cnt ∧
    t.period = s.period ∧ t.ccrPre = s.ccrPre ∧ t.ccrAct = s.ccrAct ∧ t.oe = s.oe ∧ t.pin = s.pin ∧
    (i = .cycle → 1000 < s.cmdHeld.toInt →
      t.mode = .active ∧ (t.native.toNat : Int) = mapf config s.cmdHeld.toInt ∧
        t.frame = encf config (mapf config s.cmdHeld.toInt) false) ∧
    (i = .cycle → s.cmdHeld.toInt ≤ 1000 → t.mode = .arming ∧ t.native = s.native ∧ t.frame = s.frame)) ∧
  (∀ s t : State, step s = .next t → s.rst = false → s.period ≠ 0 → t.period ≠ 0)

/-- spec/10_state.md R32: ENOUT alone sets OE, only reset clears it, and while OE = 0 the pin is low. -/
def Obligations.OutputEnableIsSetOnlyByEnOut : Prop :=
  ∀ s t : State, step s = .next t →
    (s.rst = false → s.oe = true → t.oe = true) ∧
    (s.oe = false → t.oe = true → ∃ w, s.accepted = some w ∧ decode w = .ok .enOut) ∧
    (s.rst = true → t.oe = false) ∧
    (t.oe = false → t.dshotOut = false)

/-- The "written by" column of spec/10_state.md R20, as a rule over every step without reset: a register that changes was
written by a command the table names, by a starting or running emission, or by the counter's phase 3; each of the sixteen has its
clause. -/
def Obligations.RegistersHaveTheirWriters : Prop :=
  ∀ s t : State, step s = .next t → s.rst = false →
    (t.cmdHeld ≠ s.cmdHeld → ∃ w c, s.accepted = some w ∧ decode w = .ok (.setCmd c)) ∧
    (t.native ≠ s.native → ∃ w i, s.accepted = some w ∧ decode w = .ok i ∧
      ((∃ c, i = .map c) ∨ i = .cycle ∧ t.mode = .active)) ∧
    (t.frame ≠ s.frame → ∃ w i, s.accepted = some w ∧ decode w = .ok i ∧
      ((∃ v b, i = .encode v b) ∨ i = .cycle ∧ t.mode = .active)) ∧
    (t.mode ≠ s.mode → ∃ w, s.accepted = some w ∧ decode w = .ok .cycle) ∧
    (t.period ≠ s.period → ∃ w p, s.accepted = some w ∧ decode w = .ok (.setPeriod p)) ∧
    (t.tx ≠ s.tx → ∃ f, StartsEmission s f ∧ t.tx = f) ∧
    (t.sym ≠ s.sym ∨ t.hold ≠ s.hold → s.busy = true ∨ ∃ f, StartsEmission s f) ∧
    (s.busy = false → t.busy = true → ∃ f, StartsEmission s f) ∧
    (s.busy = true → t.busy = false → s.sym = 15 ∧ s.hold = 0) ∧
    (t.cnt ≠ s.cnt → (t.period ≠ 0 ∧ (t.cnt = 0 ∨ t.cnt = s.cnt + 1)) ∨ s.busy = true ∨ (∃ f, StartsEmission s f) ∨
      ∃ w, s.accepted = some w ∧ decode w = .ok .reload) ∧
    (t.ccrAct ≠ s.ccrAct → (t.period ≠ 0 ∧ t.cnt = 0 ∧ t.ccrAct = t.ccrPre) ∨ s.busy = true ∨ (∃ f, StartsEmission s f) ∨
      ∃ w, s.accepted = some w ∧ decode w = .ok .reload) ∧
    (t.oe ≠ s.oe → ∃ w, s.accepted = some w ∧ decode w = .ok .enOut) ∧
    (t.ccrPre ≠ s.ccrPre → s.busy = true ∨ (∃ f, StartsEmission s f) ∨
      ∃ w v, s.accepted = some w ∧ decode w = .ok (.setCmp v)) ∧
    (t.errIllegal ≠ s.errIllegal → ∃ w, s.accepted = some w ∧ ¬ LegalWord w) ∧
    (t.errNoOe ≠ s.errNoOe ∨ t.errPeriod ≠ s.errPeriod →
      ∃ w i, s.accepted = some w ∧ decode w = .ok i ∧ isEmitting i = true)

/-- Nothing stops the block (spec/60_exceptions.md R140): every command answers a next state in every state, and so does every
run of every length. -/
def Obligations.NoConditionStopsTheBlock : Prop :=
  (∀ (i : Instr) (s : State), ∃ t, exec i s = .next t) ∧
  (∀ (k : Nat) (s : State), ∃ t, Host.Core.run core k s = .next t)

/-- spec/10_state.md R34: STATUS bit by bit; its reserved bits read 0; it is 0x00 after reset. -/
def Obligations.StatusWordLayout : Prop :=
  (∀ s : State,
    s.statusOut.getLsbD 0 = s.busy ∧ s.statusOut.getLsbD 1 = (s.mode == .active) ∧ s.statusOut.getLsbD 2 = s.oe ∧
    s.statusOut.getLsbD 3 = false ∧ s.statusOut.getLsbD 4 = s.errIllegal ∧ s.statusOut.getLsbD 5 = s.errNoOe ∧
    s.statusOut.getLsbD 6 = s.errPeriod ∧ s.statusOut.getLsbD 7 = false) ∧
  State.reset.statusOut = 0x00

/-- Every cycle keeps the invariant (spec/10_state.md R23, R24, R27, R28): NATIVE in range, every held frame valid, the counter
in range, and the sequencer consistent. -/
def Obligations.StepKeepsInvariant : Prop :=
  ∀ s t : State, Inv s → step s = .next t → Inv t

/-- The reset state meets the invariant (spec/10_state.md R23, R24; spec/70_reset_and_hazards.md R160). -/
def Obligations.ResetMeetsInvariant : Prop :=
  Inv State.reset

/-- The one-cycle rows of spec/70_reset_and_hazards.md R171: after an accepted command that starts no emission, or an accepted
illegal word, the very next cycle can accept a command. -/
def Obligations.OneCycleCommands : Prop :=
  ∀ (s t : State) (w : CmdWord), s.accepted = some w → step s = .next t →
    ((∃ e, decode w = .error e) ∨ (∃ i, decode w = .ok i ∧ (isEmitting i = false ∨ s.period = 0))) →
    t.busy = false ∧ (t.rst = false → t.cmdReady = true)

/-! ## The assembler -/

/-- spec/30_encoding.md R72's expansions, each a list of well-formed commands. -/
def Obligations.PseudoInstructionsExpand : Prop :=
  Pseudo.setup.expand = [.setPeriod 240, .enOut] ∧
  (∀ v, (Pseudo.send v).expand = [.encode v false, .emit]) ∧ (∀ v, (Pseudo.sendT v).expand = [.encode v true, .emit]) ∧
  (∀ c, (Pseudo.throttle c).expand = [.setCmd c, .cycle]) ∧ Pseudo.idle.expand = [.emitIdle]

/-- The assembler never produces an illegal word: every word of an assembled text is legal (spec/30_encoding.md R71, R67). -/
def Obligations.AssemblerEmitsLegalWords : Prop :=
  ∀ (lines : List (List Char)) (ws : List CmdWord), assemble lines = .ok ws → ∀ w ∈ ws, LegalWord w
end

