-- ==== Sys2Proof/Laws/State.lean ====
section
/-!
SUPPORT. Beside State: what each register write, setErr, the update event and taking a cycle's input leave in every field, one
lemma a field; and the configuration's values.
-/

namespace Sys2Proof

@[simp] theorem config_cmdMin : config.cmdMin = 1000 := (rfl)
@[simp] theorem config_cmdMax : config.cmdMax = 2000 := (rfl)
@[simp] theorem config_natMin : config.natMin = 48 := (rfl)
@[simp] theorem config_natMax : config.natMax = 2047 := (rfl)
@[simp] theorem config_pCfg : config.pCfg = 240 := (rfl)
@[simp] theorem config_w1 : config.w1 = 180 := (rfl)
@[simp] theorem config_w0 : config.w0 = 90 := (rfl)
@[simp] theorem config_tmrW : config.tmrW = 16 := (rfl)

/-- The instance values satisfy all of them (spec/00_scope.md R9). -/
theorem config_wellFormed : config.WellFormed := by decide

end Sys2Proof

namespace Sys2Proof.Machine

section
variable (v : Imm) (s : State)
@[simp] theorem setCmdHeld_cmdHeld : (s.setCmdHeld v).cmdHeld = v := (rfl)
@[simp] theorem setCmdHeld_native : (s.setCmdHeld v).native = s.native := (rfl)
@[simp] theorem setCmdHeld_frame : (s.setCmdHeld v).frame = s.frame := (rfl)
@[simp] theorem setCmdHeld_mode : (s.setCmdHeld v).mode = s.mode := (rfl)
@[simp] theorem setCmdHeld_tx : (s.setCmdHeld v).tx = s.tx := (rfl)
@[simp] theorem setCmdHeld_sym : (s.setCmdHeld v).sym = s.sym := (rfl)
@[simp] theorem setCmdHeld_hold : (s.setCmdHeld v).hold = s.hold := (rfl)
@[simp] theorem setCmdHeld_busy : (s.setCmdHeld v).busy = s.busy := (rfl)
@[simp] theorem setCmdHeld_cnt : (s.setCmdHeld v).cnt = s.cnt := (rfl)
@[simp] theorem setCmdHeld_period : (s.setCmdHeld v).period = s.period := (rfl)
@[simp] theorem setCmdHeld_ccrPre : (s.setCmdHeld v).ccrPre = s.ccrPre := (rfl)
@[simp] theorem setCmdHeld_ccrAct : (s.setCmdHeld v).ccrAct = s.ccrAct := (rfl)
@[simp] theorem setCmdHeld_oe : (s.setCmdHeld v).oe = s.oe := (rfl)
@[simp] theorem setCmdHeld_errIllegal : (s.setCmdHeld v).errIllegal = s.errIllegal := (rfl)
@[simp] theorem setCmdHeld_errNoOe : (s.setCmdHeld v).errNoOe = s.errNoOe := (rfl)
@[simp] theorem setCmdHeld_errPeriod : (s.setCmdHeld v).errPeriod = s.errPeriod := (rfl)
@[simp] theorem setCmdHeld_dshotOut : (s.setCmdHeld v).dshotOut = s.dshotOut := (rfl)
@[simp] theorem setCmdHeld_host : (s.setCmdHeld v).host = s.host := (rfl)
end

section
variable (v : Native) (s : State)
@[simp] theorem setNative_cmdHeld : (s.setNative v).cmdHeld = s.cmdHeld := (rfl)
@[simp] theorem setNative_native : (s.setNative v).native = v := (rfl)
@[simp] theorem setNative_frame : (s.setNative v).frame = s.frame := (rfl)
@[simp] theorem setNative_mode : (s.setNative v).mode = s.mode := (rfl)
@[simp] theorem setNative_tx : (s.setNative v).tx = s.tx := (rfl)
@[simp] theorem setNative_sym : (s.setNative v).sym = s.sym := (rfl)
@[simp] theorem setNative_hold : (s.setNative v).hold = s.hold := (rfl)
@[simp] theorem setNative_busy : (s.setNative v).busy = s.busy := (rfl)
@[simp] theorem setNative_cnt : (s.setNative v).cnt = s.cnt := (rfl)
@[simp] theorem setNative_period : (s.setNative v).period = s.period := (rfl)
@[simp] theorem setNative_ccrPre : (s.setNative v).ccrPre = s.ccrPre := (rfl)
@[simp] theorem setNative_ccrAct : (s.setNative v).ccrAct = s.ccrAct := (rfl)
@[simp] theorem setNative_oe : (s.setNative v).oe = s.oe := (rfl)
@[simp] theorem setNative_errIllegal : (s.setNative v).errIllegal = s.errIllegal := (rfl)
@[simp] theorem setNative_errNoOe : (s.setNative v).errNoOe = s.errNoOe := (rfl)
@[simp] theorem setNative_errPeriod : (s.setNative v).errPeriod = s.errPeriod := (rfl)
@[simp] theorem setNative_dshotOut : (s.setNative v).dshotOut = s.dshotOut := (rfl)
@[simp] theorem setNative_host : (s.setNative v).host = s.host := (rfl)
end

section
variable (v : FrameWord) (s : State)
@[simp] theorem setFrame_cmdHeld : (s.setFrame v).cmdHeld = s.cmdHeld := (rfl)
@[simp] theorem setFrame_native : (s.setFrame v).native = s.native := (rfl)
@[simp] theorem setFrame_frame : (s.setFrame v).frame = v := (rfl)
@[simp] theorem setFrame_mode : (s.setFrame v).mode = s.mode := (rfl)
@[simp] theorem setFrame_tx : (s.setFrame v).tx = s.tx := (rfl)
@[simp] theorem setFrame_sym : (s.setFrame v).sym = s.sym := (rfl)
@[simp] theorem setFrame_hold : (s.setFrame v).hold = s.hold := (rfl)
@[simp] theorem setFrame_busy : (s.setFrame v).busy = s.busy := (rfl)
@[simp] theorem setFrame_cnt : (s.setFrame v).cnt = s.cnt := (rfl)
@[simp] theorem setFrame_period : (s.setFrame v).period = s.period := (rfl)
@[simp] theorem setFrame_ccrPre : (s.setFrame v).ccrPre = s.ccrPre := (rfl)
@[simp] theorem setFrame_ccrAct : (s.setFrame v).ccrAct = s.ccrAct := (rfl)
@[simp] theorem setFrame_oe : (s.setFrame v).oe = s.oe := (rfl)
@[simp] theorem setFrame_errIllegal : (s.setFrame v).errIllegal = s.errIllegal := (rfl)
@[simp] theorem setFrame_errNoOe : (s.setFrame v).errNoOe = s.errNoOe := (rfl)
@[simp] theorem setFrame_errPeriod : (s.setFrame v).errPeriod = s.errPeriod := (rfl)
@[simp] theorem setFrame_dshotOut : (s.setFrame v).dshotOut = s.dshotOut := (rfl)
@[simp] theorem setFrame_host : (s.setFrame v).host = s.host := (rfl)
end

section
variable (v : Mode) (s : State)
@[simp] theorem setMode_cmdHeld : (s.setMode v).cmdHeld = s.cmdHeld := (rfl)
@[simp] theorem setMode_native : (s.setMode v).native = s.native := (rfl)
@[simp] theorem setMode_frame : (s.setMode v).frame = s.frame := (rfl)
@[simp] theorem setMode_mode : (s.setMode v).mode = v := (rfl)
@[simp] theorem setMode_tx : (s.setMode v).tx = s.tx := (rfl)
@[simp] theorem setMode_sym : (s.setMode v).sym = s.sym := (rfl)
@[simp] theorem setMode_hold : (s.setMode v).hold = s.hold := (rfl)
@[simp] theorem setMode_busy : (s.setMode v).busy = s.busy := (rfl)
@[simp] theorem setMode_cnt : (s.setMode v).cnt = s.cnt := (rfl)
@[simp] theorem setMode_period : (s.setMode v).period = s.period := (rfl)
@[simp] theorem setMode_ccrPre : (s.setMode v).ccrPre = s.ccrPre := (rfl)
@[simp] theorem setMode_ccrAct : (s.setMode v).ccrAct = s.ccrAct := (rfl)
@[simp] theorem setMode_oe : (s.setMode v).oe = s.oe := (rfl)
@[simp] theorem setMode_errIllegal : (s.setMode v).errIllegal = s.errIllegal := (rfl)
@[simp] theorem setMode_errNoOe : (s.setMode v).errNoOe = s.errNoOe := (rfl)
@[simp] theorem setMode_errPeriod : (s.setMode v).errPeriod = s.errPeriod := (rfl)
@[simp] theorem setMode_dshotOut : (s.setMode v).dshotOut = s.dshotOut := (rfl)
@[simp] theorem setMode_host : (s.setMode v).host = s.host := (rfl)
end

section
variable (v : Timer) (s : State)
@[simp] theorem setPeriod_cmdHeld : (s.setPeriod v).cmdHeld = s.cmdHeld := (rfl)
@[simp] theorem setPeriod_native : (s.setPeriod v).native = s.native := (rfl)
@[simp] theorem setPeriod_frame : (s.setPeriod v).frame = s.frame := (rfl)
@[simp] theorem setPeriod_mode : (s.setPeriod v).mode = s.mode := (rfl)
@[simp] theorem setPeriod_tx : (s.setPeriod v).tx = s.tx := (rfl)
@[simp] theorem setPeriod_sym : (s.setPeriod v).sym = s.sym := (rfl)
@[simp] theorem setPeriod_hold : (s.setPeriod v).hold = s.hold := (rfl)
@[simp] theorem setPeriod_busy : (s.setPeriod v).busy = s.busy := (rfl)
@[simp] theorem setPeriod_cnt : (s.setPeriod v).cnt = s.cnt := (rfl)
@[simp] theorem setPeriod_period : (s.setPeriod v).period = v := (rfl)
@[simp] theorem setPeriod_ccrPre : (s.setPeriod v).ccrPre = s.ccrPre := (rfl)
@[simp] theorem setPeriod_ccrAct : (s.setPeriod v).ccrAct = s.ccrAct := (rfl)
@[simp] theorem setPeriod_oe : (s.setPeriod v).oe = s.oe := (rfl)
@[simp] theorem setPeriod_errIllegal : (s.setPeriod v).errIllegal = s.errIllegal := (rfl)
@[simp] theorem setPeriod_errNoOe : (s.setPeriod v).errNoOe = s.errNoOe := (rfl)
@[simp] theorem setPeriod_errPeriod : (s.setPeriod v).errPeriod = s.errPeriod := (rfl)
@[simp] theorem setPeriod_dshotOut : (s.setPeriod v).dshotOut = s.dshotOut := (rfl)
@[simp] theorem setPeriod_host : (s.setPeriod v).host = s.host := (rfl)
end

section
variable (v : Timer) (s : State)
@[simp] theorem setCcrPre_cmdHeld : (s.setCcrPre v).cmdHeld = s.cmdHeld := (rfl)
@[simp] theorem setCcrPre_native : (s.setCcrPre v).native = s.native := (rfl)
@[simp] theorem setCcrPre_frame : (s.setCcrPre v).frame = s.frame := (rfl)
@[simp] theorem setCcrPre_mode : (s.setCcrPre v).mode = s.mode := (rfl)
@[simp] theorem setCcrPre_tx : (s.setCcrPre v).tx = s.tx := (rfl)
@[simp] theorem setCcrPre_sym : (s.setCcrPre v).sym = s.sym := (rfl)
@[simp] theorem setCcrPre_hold : (s.setCcrPre v).hold = s.hold := (rfl)
@[simp] theorem setCcrPre_busy : (s.setCcrPre v).busy = s.busy := (rfl)
@[simp] theorem setCcrPre_cnt : (s.setCcrPre v).cnt = s.cnt := (rfl)
@[simp] theorem setCcrPre_period : (s.setCcrPre v).period = s.period := (rfl)
@[simp] theorem setCcrPre_ccrPre : (s.setCcrPre v).ccrPre = v := (rfl)
@[simp] theorem setCcrPre_ccrAct : (s.setCcrPre v).ccrAct = s.ccrAct := (rfl)
@[simp] theorem setCcrPre_oe : (s.setCcrPre v).oe = s.oe := (rfl)
@[simp] theorem setCcrPre_errIllegal : (s.setCcrPre v).errIllegal = s.errIllegal := (rfl)
@[simp] theorem setCcrPre_errNoOe : (s.setCcrPre v).errNoOe = s.errNoOe := (rfl)
@[simp] theorem setCcrPre_errPeriod : (s.setCcrPre v).errPeriod = s.errPeriod := (rfl)
@[simp] theorem setCcrPre_dshotOut : (s.setCcrPre v).dshotOut = s.dshotOut := (rfl)
@[simp] theorem setCcrPre_host : (s.setCcrPre v).host = s.host := (rfl)
end

section
variable (v : Bool) (s : State)
@[simp] theorem setOe_cmdHeld : (s.setOe v).cmdHeld = s.cmdHeld := (rfl)
@[simp] theorem setOe_native : (s.setOe v).native = s.native := (rfl)
@[simp] theorem setOe_frame : (s.setOe v).frame = s.frame := (rfl)
@[simp] theorem setOe_mode : (s.setOe v).mode = s.mode := (rfl)
@[simp] theorem setOe_tx : (s.setOe v).tx = s.tx := (rfl)
@[simp] theorem setOe_sym : (s.setOe v).sym = s.sym := (rfl)
@[simp] theorem setOe_hold : (s.setOe v).hold = s.hold := (rfl)
@[simp] theorem setOe_busy : (s.setOe v).busy = s.busy := (rfl)
@[simp] theorem setOe_cnt : (s.setOe v).cnt = s.cnt := (rfl)
@[simp] theorem setOe_period : (s.setOe v).period = s.period := (rfl)
@[simp] theorem setOe_ccrPre : (s.setOe v).ccrPre = s.ccrPre := (rfl)
@[simp] theorem setOe_ccrAct : (s.setOe v).ccrAct = s.ccrAct := (rfl)
@[simp] theorem setOe_oe : (s.setOe v).oe = v := (rfl)
@[simp] theorem setOe_errIllegal : (s.setOe v).errIllegal = s.errIllegal := (rfl)
@[simp] theorem setOe_errNoOe : (s.setOe v).errNoOe = s.errNoOe := (rfl)
@[simp] theorem setOe_errPeriod : (s.setOe v).errPeriod = s.errPeriod := (rfl)
@[simp] theorem setOe_dshotOut : (s.setOe v).dshotOut = s.dshotOut := (rfl)
@[simp] theorem setOe_host : (s.setOe v).host = s.host := (rfl)
end

section
variable (v : Timer) (s : State)
@[simp] theorem setCnt_cmdHeld : (s.setCnt v).cmdHeld = s.cmdHeld := (rfl)
@[simp] theorem setCnt_native : (s.setCnt v).native = s.native := (rfl)
@[simp] theorem setCnt_frame : (s.setCnt v).frame = s.frame := (rfl)
@[simp] theorem setCnt_mode : (s.setCnt v).mode = s.mode := (rfl)
@[simp] theorem setCnt_tx : (s.setCnt v).tx = s.tx := (rfl)
@[simp] theorem setCnt_sym : (s.setCnt v).sym = s.sym := (rfl)
@[simp] theorem setCnt_hold : (s.setCnt v).hold = s.hold := (rfl)
@[simp] theorem setCnt_busy : (s.setCnt v).busy = s.busy := (rfl)
@[simp] theorem setCnt_cnt : (s.setCnt v).cnt = v := (rfl)
@[simp] theorem setCnt_period : (s.setCnt v).period = s.period := (rfl)
@[simp] theorem setCnt_ccrPre : (s.setCnt v).ccrPre = s.ccrPre := (rfl)
@[simp] theorem setCnt_ccrAct : (s.setCnt v).ccrAct = s.ccrAct := (rfl)
@[simp] theorem setCnt_oe : (s.setCnt v).oe = s.oe := (rfl)
@[simp] theorem setCnt_errIllegal : (s.setCnt v).errIllegal = s.errIllegal := (rfl)
@[simp] theorem setCnt_errNoOe : (s.setCnt v).errNoOe = s.errNoOe := (rfl)
@[simp] theorem setCnt_errPeriod : (s.setCnt v).errPeriod = s.errPeriod := (rfl)
@[simp] theorem setCnt_dshotOut : (s.setCnt v).dshotOut = s.dshotOut := (rfl)
@[simp] theorem setCnt_host : (s.setCnt v).host = s.host := (rfl)
end

section
variable (s : State)
@[simp] theorem updateEvent_cmdHeld : s.updateEvent.cmdHeld = s.cmdHeld := (rfl)
@[simp] theorem updateEvent_native : s.updateEvent.native = s.native := (rfl)
@[simp] theorem updateEvent_frame : s.updateEvent.frame = s.frame := (rfl)
@[simp] theorem updateEvent_mode : s.updateEvent.mode = s.mode := (rfl)
@[simp] theorem updateEvent_tx : s.updateEvent.tx = s.tx := (rfl)
@[simp] theorem updateEvent_sym : s.updateEvent.sym = s.sym := (rfl)
@[simp] theorem updateEvent_hold : s.updateEvent.hold = s.hold := (rfl)
@[simp] theorem updateEvent_busy : s.updateEvent.busy = s.busy := (rfl)
@[simp] theorem updateEvent_cnt : s.updateEvent.cnt = s.cnt := (rfl)
@[simp] theorem updateEvent_period : s.updateEvent.period = s.period := (rfl)
@[simp] theorem updateEvent_ccrPre : s.updateEvent.ccrPre = s.ccrPre := (rfl)
@[simp] theorem updateEvent_ccrAct : s.updateEvent.ccrAct = s.ccrPre := (rfl)
@[simp] theorem updateEvent_oe : s.updateEvent.oe = s.oe := (rfl)
@[simp] theorem updateEvent_errIllegal : s.updateEvent.errIllegal = s.errIllegal := (rfl)
@[simp] theorem updateEvent_errNoOe : s.updateEvent.errNoOe = s.errNoOe := (rfl)
@[simp] theorem updateEvent_errPeriod : s.updateEvent.errPeriod = s.errPeriod := (rfl)
@[simp] theorem updateEvent_dshotOut : s.updateEvent.dshotOut = s.dshotOut := (rfl)
@[simp] theorem updateEvent_host : s.updateEvent.host = s.host := (rfl)

@[simp] theorem takeInput_cmdHeld : s.takeInput.cmdHeld = s.cmdHeld := (rfl)
@[simp] theorem takeInput_native : s.takeInput.native = s.native := (rfl)
@[simp] theorem takeInput_frame : s.takeInput.frame = s.frame := (rfl)
@[simp] theorem takeInput_mode : s.takeInput.mode = s.mode := (rfl)
@[simp] theorem takeInput_tx : s.takeInput.tx = s.tx := (rfl)
@[simp] theorem takeInput_sym : s.takeInput.sym = s.sym := (rfl)
@[simp] theorem takeInput_hold : s.takeInput.hold = s.hold := (rfl)
@[simp] theorem takeInput_busy : s.takeInput.busy = s.busy := (rfl)
@[simp] theorem takeInput_cnt : s.takeInput.cnt = s.cnt := (rfl)
@[simp] theorem takeInput_period : s.takeInput.period = s.period := (rfl)
@[simp] theorem takeInput_ccrPre : s.takeInput.ccrPre = s.ccrPre := (rfl)
@[simp] theorem takeInput_ccrAct : s.takeInput.ccrAct = s.ccrAct := (rfl)
@[simp] theorem takeInput_oe : s.takeInput.oe = s.oe := (rfl)
@[simp] theorem takeInput_errIllegal : s.takeInput.errIllegal = s.errIllegal := (rfl)
@[simp] theorem takeInput_errNoOe : s.takeInput.errNoOe = s.errNoOe := (rfl)
@[simp] theorem takeInput_errPeriod : s.takeInput.errPeriod = s.errPeriod := (rfl)
@[simp] theorem takeInput_dshotOut : s.takeInput.dshotOut = s.dshotOut := (rfl)
@[simp] theorem takeInput_host : s.takeInput.host = s.hostNext := (rfl)

@[simp] theorem setErr_cmdHeld (e : ErrFlag) : (s.setErr e).cmdHeld = s.cmdHeld := by cases e <;> rfl
@[simp] theorem setErr_native (e : ErrFlag) : (s.setErr e).native = s.native := by cases e <;> rfl
@[simp] theorem setErr_frame (e : ErrFlag) : (s.setErr e).frame = s.frame := by cases e <;> rfl
@[simp] theorem setErr_mode (e : ErrFlag) : (s.setErr e).mode = s.mode := by cases e <;> rfl
@[simp] theorem setErr_tx (e : ErrFlag) : (s.setErr e).tx = s.tx := by cases e <;> rfl
@[simp] theorem setErr_sym (e : ErrFlag) : (s.setErr e).sym = s.sym := by cases e <;> rfl
@[simp] theorem setErr_hold (e : ErrFlag) : (s.setErr e).hold = s.hold := by cases e <;> rfl
@[simp] theorem setErr_busy (e : ErrFlag) : (s.setErr e).busy = s.busy := by cases e <;> rfl
@[simp] theorem setErr_cnt (e : ErrFlag) : (s.setErr e).cnt = s.cnt := by cases e <;> rfl
@[simp] theorem setErr_period (e : ErrFlag) : (s.setErr e).period = s.period := by cases e <;> rfl
@[simp] theorem setErr_ccrPre (e : ErrFlag) : (s.setErr e).ccrPre = s.ccrPre := by cases e <;> rfl
@[simp] theorem setErr_ccrAct (e : ErrFlag) : (s.setErr e).ccrAct = s.ccrAct := by cases e <;> rfl
@[simp] theorem setErr_oe (e : ErrFlag) : (s.setErr e).oe = s.oe := by cases e <;> rfl
@[simp] theorem setErr_errIllegal (e : ErrFlag) : (s.setErr e).errIllegal = (s.errIllegal || e == .illegal) := by cases e <;> simp [State.setErr]
@[simp] theorem setErr_errNoOe (e : ErrFlag) : (s.setErr e).errNoOe = (s.errNoOe || e == .noOe) := by cases e <;> simp [State.setErr]
@[simp] theorem setErr_errPeriod (e : ErrFlag) : (s.setErr e).errPeriod = (s.errPeriod || e == .period) := by cases e <;> simp [State.setErr]
@[simp] theorem setErr_dshotOut (e : ErrFlag) : (s.setErr e).dshotOut = s.dshotOut := by cases e <;> rfl
@[simp] theorem setErr_host (e : ErrFlag) : (s.setErr e).host = s.host := by cases e <;> rfl
end

end Sys2Proof.Machine
end

