-- ==== Sys2Proof/Laws/Decode.lean ====
section
/-!
SUPPORT. The command word's fields as numbers, what each field of an encoded word is, that the four fields make the word, and
the inversion of the decoder.
-/

namespace Sys2Proof

/-! ## Fields as numbers (spec/30_encoding.md R64) -/

section
variable (w : CmdWord)

theorem opcOf_toNat : (opcOf w).toNat = w.toNat / 2 ^ 56 % 2 ^ 8 := by
  simp [opcOf, Nat.shiftRight_eq_div_pow]

theorem rsvOf_toNat : (rsvOf w).toNat = w.toNat / 2 ^ 33 % 2 ^ 23 := by
  simp [rsvOf, Nat.shiftRight_eq_div_pow]

theorem telemOf_toNat : (telemOf w).toNat = w.toNat / 2 ^ 32 % 2 := by
  rw [telemOf, ← BitVec.testBit_toNat, Nat.toNat_testBit]

theorem immOf_toNat : (immOf w).toNat = w.toNat % 2 ^ 32 := by
  simp [immOf]

theorem immHighOf_toNat : (immHighOf w).toNat = (immOf w).toNat / 2 ^ 16 := by
  rw [immOf_toNat]
  simp [immHighOf, Nat.shiftRight_eq_div_pow]
  omega

theorem immLowOf_toNat : (immLowOf w).toNat = (immOf w).toNat % 2 ^ 16 := by
  rw [immOf_toNat]
  simp [immLowOf]

end

theorem cmdWord_toNat (opc : BitVec 8) (t : Bool) (imm : Imm) :
    (cmdWord opc t imm).toNat = opc.toNat * 2 ^ 56 + t.toNat * 2 ^ 32 + imm.toNat := by
  have h0 := imm.isLt
  have h1 : t.toNat < 2 := Bool.toNat_lt t
  have e1 : (opc ++ (0 : BitVec 23)).toNat = opc.toNat * 2 ^ 23 := by
    rw [BitVec.toNat_append, Nat.shiftLeft_eq]
    simp
  have e2 : (opc ++ (0 : BitVec 23) ++ BitVec.ofBool t).toNat = opc.toNat * 2 ^ 24 + t.toNat := by
    rw [BitVec.toNat_append, ← Nat.shiftLeft_add_eq_or_of_lt (BitVec.isLt _), e1, Nat.shiftLeft_eq, BitVec.toNat_ofBool]
    omega
  show (opc ++ (0 : BitVec 23) ++ BitVec.ofBool t ++ imm).toNat = _
  rw [BitVec.toNat_append, ← Nat.shiftLeft_add_eq_or_of_lt h0, e2, Nat.shiftLeft_eq]
  omega

/-! ## Fields of {OPC, RSV, T, IMM} -/

section
variable (opc : BitVec 8) (t : Bool) (imm : Imm)

@[simp] theorem opcOf_cmdWord : opcOf (cmdWord opc t imm) = opc := by
  apply BitVec.eq_of_toNat_eq
  have := opc.isLt; have := imm.isLt; have := Bool.toNat_lt t
  rw [opcOf_toNat, cmdWord_toNat]
  omega

@[simp] theorem rsvOf_cmdWord : rsvOf (cmdWord opc t imm) = 0 := by
  apply BitVec.eq_of_toNat_eq
  have := imm.isLt; have := Bool.toNat_lt t
  rw [rsvOf_toNat, cmdWord_toNat]
  show _ = 0
  omega

@[simp] theorem telemOf_cmdWord : telemOf (cmdWord opc t imm) = t := by
  have := imm.isLt; have := Bool.toNat_lt t
  have h : (telemOf (cmdWord opc t imm)).toNat = t.toNat := by
    rw [telemOf_toNat, cmdWord_toNat]
    omega
  revert h
  cases telemOf (cmdWord opc t imm) <;> cases t <;> simp

@[simp] theorem immOf_cmdWord : immOf (cmdWord opc t imm) = imm := by
  apply BitVec.eq_of_toNat_eq
  have := imm.isLt
  rw [immOf_toNat, cmdWord_toNat]
  omega

end

/-- The four fields make the word: a word whose RSV is 0 is the word of its OPC, T and IMM. -/
theorem cmdWord_fields (w : CmdWord) (h : rsvOf w = 0) : cmdWord (opcOf w) (telemOf w) (immOf w) = w := by
  apply BitVec.eq_of_toNat_eq
  have h0 : w.toNat / 2 ^ 33 % 2 ^ 23 = 0 := by rw [← rsvOf_toNat, h]; rfl
  have := w.isLt
  rw [cmdWord_toNat, opcOf_toNat, telemOf_toNat, immOf_toNat]
  omega

/-! ## A timer operand (spec/30_encoding.md R65, R67 (e), (f)) -/

theorem immHighOf_eq_zero_iff (w : CmdWord) : immHighOf w = 0 ↔ (immOf w).toNat < 2 ^ 16 := by
  rw [← BitVec.toNat_inj, immHighOf_toNat]
  show _ = 0 ↔ _
  omega

theorem immLowOf_setWidth {w : CmdWord} (h : immHighOf w = 0) : (immLowOf w).setWidth 32 = immOf w := by
  rw [immHighOf_eq_zero_iff] at h
  apply BitVec.eq_of_toNat_eq
  rw [BitVec.toNat_setWidth, immLowOf_toNat]
  omega

theorem immLowOf_of_setWidth {w : CmdWord} {p : Timer} (h : immOf w = p.setWidth 32) :
    immHighOf w = 0 ∧ immLowOf w = p := by
  have hn : (immOf w).toNat = p.toNat := by
    rw [h, BitVec.toNat_setWidth]
    have := p.isLt
    omega
  have := p.isLt
  constructor
  · rw [immHighOf_eq_zero_iff]; omega
  · apply BitVec.eq_of_toNat_eq; rw [immLowOf_toNat]; omega

/-! ## Inversion of the decoder -/

theorem withoutTelem_eq_ok {w : CmdWord} {r : Except DecodeError Instr} {i : Instr} :
    withoutTelem w r = .ok i ↔ telemOf w = false ∧ r = .ok i := by
  unfold withoutTelem
  cases telemOf w <;> simp

theorem decodePlain_eq_ok {i j : Instr} {w : CmdWord} :
    decodePlain i w = .ok j ↔ telemOf w = false ∧ immOf w = 0 ∧ i = j := by
  unfold decodePlain
  rw [withoutTelem_eq_ok]
  split <;> simp_all

theorem decodePeriod_eq_ok {j : Instr} {w : CmdWord} :
    decodePeriod w = .ok j ↔
      telemOf w = false ∧ (immHighOf w = 0 ∧ immLowOf w ≠ 0) ∧ .setPeriod (immLowOf w) = j := by
  unfold decodePeriod
  rw [withoutTelem_eq_ok]
  split <;> simp_all

theorem decodeCompare_eq_ok {j : Instr} {w : CmdWord} :
    decodeCompare w = .ok j ↔ telemOf w = false ∧ immHighOf w = 0 ∧ .setCmp (immLowOf w) = j := by
  unfold decodeCompare
  rw [withoutTelem_eq_ok]
  split <;> simp_all

theorem rsvOf_of_decode {w : CmdWord} {i : Instr} (h : decode w = .ok i) : rsvOf w = 0 ∧ decodeOpcode w = .ok i := by
  unfold decode at h
  split at h
  · exact ⟨‹_›, h⟩
  · cases h

/-- What a word that decodes to a command looks like: its OPC, T and IMM are the command's, and the command is well-formed. -/
theorem fields_of_decodeOpcode {w : CmdWord} {i : Instr} (h : decodeOpcode w = .ok i) :
    opcOf w = i.opc ∧ telemOf w = i.telem ∧ immOf w = i.imm ∧ i.WellFormed := by
  unfold decodeOpcode at h
  repeat' split at h
  · obtain ⟨ht, h⟩ := withoutTelem_eq_ok.mp h; cases h; exact ⟨‹_›, ht, rfl, rfl⟩
  · cases h; exact ⟨‹_›, rfl, rfl, rfl⟩
  · obtain ⟨ht, hi, rfl⟩ := decodePlain_eq_ok.mp h; exact ⟨‹_›, ht, hi, rfl⟩
  · obtain ⟨ht, hi, rfl⟩ := decodePlain_eq_ok.mp h; exact ⟨‹_›, ht, hi, rfl⟩
  · obtain ⟨ht, h⟩ := withoutTelem_eq_ok.mp h; cases h; exact ⟨‹_›, ht, rfl, rfl⟩
  · obtain ⟨ht, hi, rfl⟩ := decodePlain_eq_ok.mp h; exact ⟨‹_›, ht, hi, rfl⟩
  · obtain ⟨ht, ⟨hh, hl⟩, rfl⟩ := decodePeriod_eq_ok.mp h
    exact ⟨‹_›, ht, (immLowOf_setWidth hh).symm, bne_iff_ne.mpr hl⟩
  · obtain ⟨ht, hh, rfl⟩ := decodeCompare_eq_ok.mp h; exact ⟨‹_›, ht, (immLowOf_setWidth hh).symm, rfl⟩
  · obtain ⟨ht, hi, rfl⟩ := decodePlain_eq_ok.mp h; exact ⟨‹_›, ht, hi, rfl⟩
  · obtain ⟨ht, hi, rfl⟩ := decodePlain_eq_ok.mp h; exact ⟨‹_›, ht, hi, rfl⟩
  · cases h

/-- The decoder answers well-formed commands only. -/
theorem wellFormed_of_decode {w : CmdWord} {i : Instr} (h : decode w = .ok i) : i.WellFormed :=
  (fields_of_decodeOpcode (rsvOf_of_decode h).2).2.2.2

/-- A word whose RSV is 0 and whose fields are a well-formed command's decodes to that command. -/
theorem decode_of_fields {w : CmdWord} {i : Instr} (hr : rsvOf w = 0) (ho : opcOf w = i.opc) (ht : telemOf w = i.telem)
    (hi : immOf w = i.imm) (hw : i.WellFormed) : decode w = .ok i := by
  unfold decode
  rw [if_pos hr]
  unfold decodeOpcode
  cases i with
  | map c => rw [ho]; exact withoutTelem_eq_ok.mpr ⟨ht, by rw [hi]; rfl⟩
  | encode v t => rw [ho, ht, hi]; rfl
  | emit => rw [ho]; exact decodePlain_eq_ok.mpr ⟨ht, hi, rfl⟩
  | emitIdle => rw [ho]; exact decodePlain_eq_ok.mpr ⟨ht, hi, rfl⟩
  | setCmd c => rw [ho]; exact withoutTelem_eq_ok.mpr ⟨ht, by rw [hi]; rfl⟩
  | cycle => rw [ho]; exact decodePlain_eq_ok.mpr ⟨ht, hi, rfl⟩
  | setPeriod p =>
    obtain ⟨hh, hl⟩ := immLowOf_of_setWidth hi
    rw [ho]
    exact decodePeriod_eq_ok.mpr ⟨ht, ⟨hh, by rw [hl]; exact bne_iff_ne.mp hw⟩, by rw [hl]⟩
  | setCmp c =>
    obtain ⟨hh, hl⟩ := immLowOf_of_setWidth hi
    rw [ho]
    exact decodeCompare_eq_ok.mpr ⟨ht, hh, by rw [hl]⟩
  | reload => rw [ho]; exact decodePlain_eq_ok.mpr ⟨ht, hi, rfl⟩
  | enOut => rw [ho]; exact decodePlain_eq_ok.mpr ⟨ht, hi, rfl⟩

end Sys2Proof
end

