-- ==== Sys2Proof/Laws/Ops.lean ====
section
/-!
SUPPORT. One lemma for each shared operation that says once everything it can do, and what each leaves unchanged
(spec/42_pulse_emitter.md R103 to R112).
-/

namespace Sys2Proof.Machine

/-- The compare value of symbol `i` of frame `f` (spec/42_pulse_emitter.md R111, spec/41_frame_encoder.md R96). -/
abbrev symbolWidth (f : FrameWord) (i : SymIndex) : Timer := BitVec.ofNat 16 (symw config (symbolBit f i.toNat))

/-! ## The emitter's sub-steps -/

theorem loadSymbol_eq (i : SymIndex) (s : State) :
    State.loadSymbol i s =
      { s with ccrPre := symbolWidth s.tx i, ccrAct := symbolWidth s.tx i, cnt := 0, hold := s.period } := rfl

theorem beginEmission_eq (f : FrameWord) (s : State) :
    s.beginEmission f =
      { s with tx := f, sym := 0, busy := true, ccrPre := symbolWidth f 0, ccrAct := symbolWidth f 0, cnt := 0,
               hold := s.period } := rfl

/-- StartEmission without a programmed period: the flags and nothing else (spec/60_exceptions.md R144, R145). -/
theorem startEmission_of_period_eq_zero {f : FrameWord} {s : State} (h : s.period = 0) :
    s.startEmission f = { s with errPeriod := true, errNoOe := s.errNoOe || !s.oe } := by
  unfold State.startEmission
  simp only [ne_eq, apply_ite State.period, setErr_period, ite_self, h, not_true, if_false]
  cases ho : s.oe <;> simp [State.setErr, ho, h]

/-- StartEmission with a programmed period (spec/42_pulse_emitter.md R110, spec/60_exceptions.md R143). -/
theorem startEmission_of_period_ne_zero {f : FrameWord} {s : State} (h : s.period ≠ 0) :
    s.startEmission f =
      { s with tx := f, sym := 0, busy := true, ccrPre := symbolWidth f 0, ccrAct := symbolWidth f 0, cnt := 0,
               hold := s.period, errNoOe := s.errNoOe || !s.oe } := by
  unfold State.startEmission
  simp only [ne_eq, apply_ite State.period, setErr_period, ite_self, h, not_false_eq_true, if_true,
    beginEmission_eq]
  cases ho : s.oe <;> simp [State.setErr, ho]

theorem endEmission_eq (s : State) :
    s.endEmission = { s with ccrPre := 0, cnt := 0, ccrAct := 0, sym := 0, busy := false } := rfl

/-! ## Phase 1 -/

theorem sequencerPhase_of_not_busy {s : State} (h : s.busy = false) : s.sequencerPhase = s := by
  unfold State.sequencerPhase
  rw [h, if_neg fun hh => Bool.false_ne_true hh.1]

theorem sequencerPhase_of_hold_ne_zero {s : State} (h : s.hold ≠ 0) : s.sequencerPhase = s := by
  unfold State.sequencerPhase
  rw [if_neg fun hh => h hh.2]

theorem sequencerPhase_last {s : State} (hb : s.busy = true) (hh : s.hold = 0) (hs : s.sym = 15) :
    s.sequencerPhase = s.endEmission := by
  unfold State.sequencerPhase
  rw [if_pos ⟨hb, hh⟩, if_pos hs]

theorem sequencerPhase_next {s : State} (hb : s.busy = true) (hh : s.hold = 0) (hs : s.sym ≠ 15) :
    s.sequencerPhase =
      { s with sym := s.sym + 1, ccrPre := symbolWidth s.tx (s.sym + 1), ccrAct := symbolWidth s.tx (s.sym + 1), cnt := 0,
               hold := s.period } := by
  unfold State.sequencerPhase
  rw [if_pos ⟨hb, hh⟩, if_neg hs, loadSymbol_eq]

/-- What phase 1 can do (spec/42_pulse_emitter.md R112). -/
theorem sequencerPhase_cases (s : State) :
    (s.busy = false ∨ s.hold ≠ 0) ∧ s.sequencerPhase = s ∨
    (s.busy = true ∧ s.hold = 0 ∧ s.sym = 15) ∧ s.sequencerPhase = s.endEmission ∨
    (s.busy = true ∧ s.hold = 0 ∧ s.sym ≠ 15) ∧
      s.sequencerPhase =
        { s with sym := s.sym + 1, ccrPre := symbolWidth s.tx (s.sym + 1), ccrAct := symbolWidth s.tx (s.sym + 1),
                 cnt := 0, hold := s.period } := by
  by_cases hb : s.busy = true
  · by_cases hh : s.hold = 0
    · by_cases hs : s.sym = 15
      · exact .inr (.inl ⟨⟨hb, hh, hs⟩, sequencerPhase_last hb hh hs⟩)
      · exact .inr (.inr ⟨⟨hb, hh, hs⟩, sequencerPhase_next hb hh hs⟩)
    · exact .inl ⟨.inr hh, sequencerPhase_of_hold_ne_zero hh⟩
  · have hb : s.busy = false := by simpa using hb
    exact .inl ⟨.inl hb, sequencerPhase_of_not_busy hb⟩

/-! ## Phase 3 -/

theorem tickCounter_of_period_eq_zero {s : State} (h : s.period = 0) : s.tickCounter = s := by
  simp [State.tickCounter, h]

theorem tickCounter_wrap {s : State} (h : s.period ≠ 0) (hc : s.period - 1 ≤ s.cnt) :
    s.tickCounter = { s with cnt := 0, ccrAct := s.ccrPre } := by
  simp only [State.tickCounter, h, if_false, if_pos hc]
  rfl

theorem tickCounter_count {s : State} (h : s.period ≠ 0) (hc : ¬ s.period - 1 ≤ s.cnt) :
    s.tickCounter = { s with cnt := s.cnt + 1 } := by
  simp only [State.tickCounter, h, if_false, if_neg hc]
  rfl

/-- What the counter's part of phase 3 can do (spec/42_pulse_emitter.md R103). -/
theorem tickCounter_cases (s : State) :
    s.period = 0 ∧ s.tickCounter = s ∨
    (s.period ≠ 0 ∧ s.period - 1 ≤ s.cnt) ∧ s.tickCounter = { s with cnt := 0, ccrAct := s.ccrPre } ∨
    (s.period ≠ 0 ∧ ¬ s.period - 1 ≤ s.cnt) ∧ s.tickCounter = { s with cnt := s.cnt + 1 } := by
  by_cases h : s.period = 0
  · exact .inl ⟨h, tickCounter_of_period_eq_zero h⟩
  · by_cases hc : s.period - 1 ≤ s.cnt
    · exact .inr (.inl ⟨⟨h, hc⟩, tickCounter_wrap h hc⟩)
    · exact .inr (.inr ⟨⟨h, hc⟩, tickCounter_count h hc⟩)

/-! ## What each phase leaves unchanged -/

section
variable (s : State)

@[simp] theorem sequencerPhase_cmdHeld : s.sequencerPhase.cmdHeld = s.cmdHeld := by
  rcases sequencerPhase_cases s with ⟨_, h⟩ | ⟨_, h⟩ | ⟨_, h⟩ <;> simp only [h, endEmission_eq]
@[simp] theorem sequencerPhase_native : s.sequencerPhase.native = s.native := by
  rcases sequencerPhase_cases s with ⟨_, h⟩ | ⟨_, h⟩ | ⟨_, h⟩ <;> simp only [h, endEmission_eq]
@[simp] theorem sequencerPhase_frame : s.sequencerPhase.frame = s.frame := by
  rcases sequencerPhase_cases s with ⟨_, h⟩ | ⟨_, h⟩ | ⟨_, h⟩ <;> simp only [h, endEmission_eq]
@[simp] theorem sequencerPhase_mode : s.sequencerPhase.mode = s.mode := by
  rcases sequencerPhase_cases s with ⟨_, h⟩ | ⟨_, h⟩ | ⟨_, h⟩ <;> simp only [h, endEmission_eq]
@[simp] theorem sequencerPhase_tx : s.sequencerPhase.tx = s.tx := by
  rcases sequencerPhase_cases s with ⟨_, h⟩ | ⟨_, h⟩ | ⟨_, h⟩ <;> simp only [h, endEmission_eq]
@[simp] theorem sequencerPhase_period : s.sequencerPhase.period = s.period := by
  rcases sequencerPhase_cases s with ⟨_, h⟩ | ⟨_, h⟩ | ⟨_, h⟩ <;> simp only [h, endEmission_eq]
@[simp] theorem sequencerPhase_oe : s.sequencerPhase.oe = s.oe := by
  rcases sequencerPhase_cases s with ⟨_, h⟩ | ⟨_, h⟩ | ⟨_, h⟩ <;> simp only [h, endEmission_eq]
@[simp] theorem sequencerPhase_errIllegal : s.sequencerPhase.errIllegal = s.errIllegal := by
  rcases sequencerPhase_cases s with ⟨_, h⟩ | ⟨_, h⟩ | ⟨_, h⟩ <;> simp only [h, endEmission_eq]
@[simp] theorem sequencerPhase_errNoOe : s.sequencerPhase.errNoOe = s.errNoOe := by
  rcases sequencerPhase_cases s with ⟨_, h⟩ | ⟨_, h⟩ | ⟨_, h⟩ <;> simp only [h, endEmission_eq]
@[simp] theorem sequencerPhase_errPeriod : s.sequencerPhase.errPeriod = s.errPeriod := by
  rcases sequencerPhase_cases s with ⟨_, h⟩ | ⟨_, h⟩ | ⟨_, h⟩ <;> simp only [h, endEmission_eq]
@[simp] theorem sequencerPhase_dshotOut : s.sequencerPhase.dshotOut = s.dshotOut := by
  rcases sequencerPhase_cases s with ⟨_, h⟩ | ⟨_, h⟩ | ⟨_, h⟩ <;> simp only [h, endEmission_eq]
@[simp] theorem sequencerPhase_host : s.sequencerPhase.host = s.host := by
  rcases sequencerPhase_cases s with ⟨_, h⟩ | ⟨_, h⟩ | ⟨_, h⟩ <;> simp only [h, endEmission_eq]

@[simp] theorem outputPhase_cmdHeld : s.outputPhase.cmdHeld = s.cmdHeld := (rfl)
@[simp] theorem outputPhase_native : s.outputPhase.native = s.native := (rfl)
@[simp] theorem outputPhase_frame : s.outputPhase.frame = s.frame := (rfl)
@[simp] theorem outputPhase_mode : s.outputPhase.mode = s.mode := (rfl)
@[simp] theorem outputPhase_tx : s.outputPhase.tx = s.tx := (rfl)
@[simp] theorem outputPhase_sym : s.outputPhase.sym = s.sym := (rfl)
@[simp] theorem outputPhase_hold : s.outputPhase.hold = s.hold := (rfl)
@[simp] theorem outputPhase_busy : s.outputPhase.busy = s.busy := (rfl)
@[simp] theorem outputPhase_cnt : s.outputPhase.cnt = s.cnt := (rfl)
@[simp] theorem outputPhase_period : s.outputPhase.period = s.period := (rfl)
@[simp] theorem outputPhase_ccrPre : s.outputPhase.ccrPre = s.ccrPre := (rfl)
@[simp] theorem outputPhase_ccrAct : s.outputPhase.ccrAct = s.ccrAct := (rfl)
@[simp] theorem outputPhase_oe : s.outputPhase.oe = s.oe := (rfl)
@[simp] theorem outputPhase_errIllegal : s.outputPhase.errIllegal = s.errIllegal := (rfl)
@[simp] theorem outputPhase_errNoOe : s.outputPhase.errNoOe = s.errNoOe := (rfl)
@[simp] theorem outputPhase_errPeriod : s.outputPhase.errPeriod = s.errPeriod := (rfl)
@[simp] theorem outputPhase_dshotOut : s.outputPhase.dshotOut = s.pin := (rfl)
@[simp] theorem outputPhase_host : s.outputPhase.host = s.host := (rfl)

@[simp] theorem tickCounter_cmdHeld : s.tickCounter.cmdHeld = s.cmdHeld := by
  rcases tickCounter_cases s with ⟨_, h⟩ | ⟨_, h⟩ | ⟨_, h⟩ <;> rw [h]
@[simp] theorem tickCounter_native : s.tickCounter.native = s.native := by
  rcases tickCounter_cases s with ⟨_, h⟩ | ⟨_, h⟩ | ⟨_, h⟩ <;> rw [h]
@[simp] theorem tickCounter_frame : s.tickCounter.frame = s.frame := by
  rcases tickCounter_cases s with ⟨_, h⟩ | ⟨_, h⟩ | ⟨_, h⟩ <;> rw [h]
@[simp] theorem tickCounter_mode : s.tickCounter.mode = s.mode := by
  rcases tickCounter_cases s with ⟨_, h⟩ | ⟨_, h⟩ | ⟨_, h⟩ <;> rw [h]
@[simp] theorem tickCounter_tx : s.tickCounter.tx = s.tx := by
  rcases tickCounter_cases s with ⟨_, h⟩ | ⟨_, h⟩ | ⟨_, h⟩ <;> rw [h]
@[simp] theorem tickCounter_sym : s.tickCounter.sym = s.sym := by
  rcases tickCounter_cases s with ⟨_, h⟩ | ⟨_, h⟩ | ⟨_, h⟩ <;> rw [h]
@[simp] theorem tickCounter_hold : s.tickCounter.hold = s.hold := by
  rcases tickCounter_cases s with ⟨_, h⟩ | ⟨_, h⟩ | ⟨_, h⟩ <;> rw [h]
@[simp] theorem tickCounter_busy : s.tickCounter.busy = s.busy := by
  rcases tickCounter_cases s with ⟨_, h⟩ | ⟨_, h⟩ | ⟨_, h⟩ <;> rw [h]
@[simp] theorem tickCounter_period : s.tickCounter.period = s.period := by
  rcases tickCounter_cases s with ⟨_, h⟩ | ⟨_, h⟩ | ⟨_, h⟩ <;> rw [h]
@[simp] theorem tickCounter_ccrPre : s.tickCounter.ccrPre = s.ccrPre := by
  rcases tickCounter_cases s with ⟨_, h⟩ | ⟨_, h⟩ | ⟨_, h⟩ <;> rw [h]
@[simp] theorem tickCounter_oe : s.tickCounter.oe = s.oe := by
  rcases tickCounter_cases s with ⟨_, h⟩ | ⟨_, h⟩ | ⟨_, h⟩ <;> rw [h]
@[simp] theorem tickCounter_errIllegal : s.tickCounter.errIllegal = s.errIllegal := by
  rcases tickCounter_cases s with ⟨_, h⟩ | ⟨_, h⟩ | ⟨_, h⟩ <;> rw [h]
@[simp] theorem tickCounter_errNoOe : s.tickCounter.errNoOe = s.errNoOe := by
  rcases tickCounter_cases s with ⟨_, h⟩ | ⟨_, h⟩ | ⟨_, h⟩ <;> rw [h]
@[simp] theorem tickCounter_errPeriod : s.tickCounter.errPeriod = s.errPeriod := by
  rcases tickCounter_cases s with ⟨_, h⟩ | ⟨_, h⟩ | ⟨_, h⟩ <;> rw [h]
@[simp] theorem tickCounter_dshotOut : s.tickCounter.dshotOut = s.dshotOut := by
  rcases tickCounter_cases s with ⟨_, h⟩ | ⟨_, h⟩ | ⟨_, h⟩ <;> rw [h]
@[simp] theorem tickCounter_host : s.tickCounter.host = s.host := by
  rcases tickCounter_cases s with ⟨_, h⟩ | ⟨_, h⟩ | ⟨_, h⟩ <;> rw [h]

@[simp] theorem tickHold_cmdHeld : s.tickHold.cmdHeld = s.cmdHeld := by unfold State.tickHold; split <;> rfl
@[simp] theorem tickHold_native : s.tickHold.native = s.native := by unfold State.tickHold; split <;> rfl
@[simp] theorem tickHold_frame : s.tickHold.frame = s.frame := by unfold State.tickHold; split <;> rfl
@[simp] theorem tickHold_mode : s.tickHold.mode = s.mode := by unfold State.tickHold; split <;> rfl
@[simp] theorem tickHold_tx : s.tickHold.tx = s.tx := by unfold State.tickHold; split <;> rfl
@[simp] theorem tickHold_sym : s.tickHold.sym = s.sym := by unfold State.tickHold; split <;> rfl
@[simp] theorem tickHold_hold : s.tickHold.hold = if s.busy then s.hold - 1 else s.hold := by
  unfold State.tickHold; split <;> rfl
@[simp] theorem tickHold_busy : s.tickHold.busy = s.busy := by unfold State.tickHold; split <;> rfl
@[simp] theorem tickHold_cnt : s.tickHold.cnt = s.cnt := by unfold State.tickHold; split <;> rfl
@[simp] theorem tickHold_period : s.tickHold.period = s.period := by unfold State.tickHold; split <;> rfl
@[simp] theorem tickHold_ccrPre : s.tickHold.ccrPre = s.ccrPre := by unfold State.tickHold; split <;> rfl
@[simp] theorem tickHold_ccrAct : s.tickHold.ccrAct = s.ccrAct := by unfold State.tickHold; split <;> rfl
@[simp] theorem tickHold_oe : s.tickHold.oe = s.oe := by unfold State.tickHold; split <;> rfl
@[simp] theorem tickHold_errIllegal : s.tickHold.errIllegal = s.errIllegal := by unfold State.tickHold; split <;> rfl
@[simp] theorem tickHold_errNoOe : s.tickHold.errNoOe = s.errNoOe := by unfold State.tickHold; split <;> rfl
@[simp] theorem tickHold_errPeriod : s.tickHold.errPeriod = s.errPeriod := by unfold State.tickHold; split <;> rfl
@[simp] theorem tickHold_dshotOut : s.tickHold.dshotOut = s.dshotOut := by unfold State.tickHold; split <;> rfl
@[simp] theorem tickHold_host : s.tickHold.host = s.host := by unfold State.tickHold; split <;> rfl

@[simp] theorem counterPhase_cmdHeld : s.counterPhase.cmdHeld = s.cmdHeld := by simp [State.counterPhase]
@[simp] theorem counterPhase_native : s.counterPhase.native = s.native := by simp [State.counterPhase]
@[simp] theorem counterPhase_frame : s.counterPhase.frame = s.frame := by simp [State.counterPhase]
@[simp] theorem counterPhase_mode : s.counterPhase.mode = s.mode := by simp [State.counterPhase]
@[simp] theorem counterPhase_tx : s.counterPhase.tx = s.tx := by simp [State.counterPhase]
@[simp] theorem counterPhase_sym : s.counterPhase.sym = s.sym := by simp [State.counterPhase]
@[simp] theorem counterPhase_busy : s.counterPhase.busy = s.busy := by simp [State.counterPhase]
@[simp] theorem counterPhase_period : s.counterPhase.period = s.period := by simp [State.counterPhase]
@[simp] theorem counterPhase_ccrPre : s.counterPhase.ccrPre = s.ccrPre := by simp [State.counterPhase]
@[simp] theorem counterPhase_oe : s.counterPhase.oe = s.oe := by simp [State.counterPhase]
@[simp] theorem counterPhase_errIllegal : s.counterPhase.errIllegal = s.errIllegal := by simp [State.counterPhase]
@[simp] theorem counterPhase_errNoOe : s.counterPhase.errNoOe = s.errNoOe := by simp [State.counterPhase]
@[simp] theorem counterPhase_errPeriod : s.counterPhase.errPeriod = s.errPeriod := by simp [State.counterPhase]
@[simp] theorem counterPhase_dshotOut : s.counterPhase.dshotOut = s.dshotOut := by simp [State.counterPhase]
@[simp] theorem counterPhase_host : s.counterPhase.host = s.host := by simp [State.counterPhase]
@[simp] theorem counterPhase_hold : s.counterPhase.hold = if s.busy then s.hold - 1 else s.hold := by
  simp [State.counterPhase]
@[simp] theorem counterPhase_cnt : s.counterPhase.cnt = s.tickCounter.cnt := by simp [State.counterPhase]
@[simp] theorem counterPhase_ccrAct : s.counterPhase.ccrAct = s.tickCounter.ccrAct := by simp [State.counterPhase]

@[simp] theorem finishCycle_cmdHeld : s.finishCycle.cmdHeld = s.cmdHeld := by simp [State.finishCycle]
@[simp] theorem finishCycle_native : s.finishCycle.native = s.native := by simp [State.finishCycle]
@[simp] theorem finishCycle_frame : s.finishCycle.frame = s.frame := by simp [State.finishCycle]
@[simp] theorem finishCycle_mode : s.finishCycle.mode = s.mode := by simp [State.finishCycle]
@[simp] theorem finishCycle_tx : s.finishCycle.tx = s.tx := by simp [State.finishCycle]
@[simp] theorem finishCycle_period : s.finishCycle.period = s.period := by simp [State.finishCycle]
@[simp] theorem finishCycle_oe : s.finishCycle.oe = s.oe := by simp [State.finishCycle]
@[simp] theorem finishCycle_errIllegal : s.finishCycle.errIllegal = s.errIllegal := by simp [State.finishCycle]
@[simp] theorem finishCycle_errNoOe : s.finishCycle.errNoOe = s.errNoOe := by simp [State.finishCycle]
@[simp] theorem finishCycle_errPeriod : s.finishCycle.errPeriod = s.errPeriod := by simp [State.finishCycle]
@[simp] theorem finishCycle_host : s.finishCycle.host = s.host := by simp [State.finishCycle]
@[simp] theorem finishCycle_busy : s.finishCycle.busy = s.sequencerPhase.busy := by simp [State.finishCycle]
@[simp] theorem finishCycle_sym : s.finishCycle.sym = s.sequencerPhase.sym := by simp [State.finishCycle]
@[simp] theorem finishCycle_ccrPre : s.finishCycle.ccrPre = s.sequencerPhase.ccrPre := by simp [State.finishCycle]
/-- The pin of a cycle is the one phase 1 leaves (spec/42_pulse_emitter.md R105). -/
@[simp] theorem finishCycle_dshotOut : s.finishCycle.dshotOut = s.sequencerPhase.pin := by simp [State.finishCycle]

end

end Sys2Proof.Machine
end

