-- ==== Sys2Proof/Laws/Exec.lean ====
section
/-!
SUPPORT. What a command and a step can do, said once: the effect of each command as a state, phase 0 as a state, and the next
state of a step (no step stops, spec/60_exceptions.md R140).
-/

namespace Sys2Proof.Machine

/-- The state each command leaves. -/
def effect (i : Instr) (s : State) : State :=
  match i with
  | .map c => s.setNative (BitVec.ofInt 11 (mapf config (sext32 c)))
  | .encode v t => s.setFrame (encf config (sext32 v) t)
  | .emit => s.startEmission s.frame
  | .emitIdle => s.startEmission idleFrame
  | .setCmd c => s.setCmdHeld c
  | .cycle => if armTest config (sext32 s.cmdHeld) then s.cycleArming else s.cycleActive (sext32 s.cmdHeld)
  | .setPeriod p => s.setPeriod p
  | .setCmp w => s.setCcrPre w
  | .reload => (s.setCnt 0).updateEvent
  | .enOut => s.setOe true

/-- CYCLE in ARMING (spec/43_scheduler.md R132). -/
theorem effect_cycle_arming {s : State} (h : armTest config (sext32 s.cmdHeld) = true) :
    effect .cycle s = (s.setMode .arming).startEmission idleFrame := by
  simp only [effect, h, if_true, State.cycleArming]

/-- CYCLE in ACTIVE (spec/43_scheduler.md R132). -/
theorem effect_cycle_active {s : State} (h : armTest config (sext32 s.cmdHeld) = false) :
    effect .cycle s =
      ({ s with mode := .active, native := BitVec.ofInt 11 (mapf config (sext32 s.cmdHeld)),
                frame := encf config (BitVec.ofInt 11 (mapf config (sext32 s.cmdHeld))).toNat false } : State).startEmission
        (encf config (BitVec.ofInt 11 (mapf config (sext32 s.cmdHeld))).toNat false) := by
  simp only [effect, h, Bool.false_eq_true, if_false, State.cycleActive]
  rfl

theorem exec_eq_effect (i : Instr) (s : State) : exec i s = .next (effect i s) := by
  cases i <;> rfl

/-- The state an accepted word leaves in phase 0. -/
def performed (w : CmdWord) (s : State) : State :=
  match decode w with
  | .ok i => effect i s
  | .error _ => s.illegalCommand

theorem perform_eq (w : CmdWord) (s : State) : perform w s = .next (performed w s) := by
  unfold perform performed
  cases decode w <;> simp [exec_eq_effect]

/-- The state phase 0 leaves. -/
def phaseZero (s : State) : State :=
  match s.accepted with
  | some w => performed w s.takeInput
  | none => s.takeInput

theorem commandPhase_eq (s : State) : commandPhase s = .next (phaseZero s) := by
  unfold commandPhase phaseZero
  cases s.accepted <;> simp [perform_eq]

/-- The state a step leaves. -/
def afterStep (s : State) : State := if s.rst then s.resetCycle else (phaseZero s).finishCycle

theorem cycle_eq (s : State) : cycle s = .next (afterStep s) := by
  unfold cycle afterStep
  split
  · rfl
  · rw [commandPhase_eq]

theorem step_eq_cycle (s : State) : step s = cycle s := by
  unfold step configuredCycle
  rw [if_pos config_wellFormed]

theorem step_eq_afterStep (s : State) : step s = .next (afterStep s) := by
  rw [step_eq_cycle, cycle_eq]

theorem step_eq_next_iff {s t : State} : step s = .next t ↔ afterStep s = t := by
  rw [step_eq_afterStep]
  simp

theorem afterStep_of_not_rst {s : State} (h : s.rst = false) : afterStep s = (phaseZero s).finishCycle := by
  simp [afterStep, h]

/-! ## The cases of phase 0 -/

theorem accepted_eq_some_iff {s : State} {w : CmdWord} :
    s.accepted = some w ↔ s.rst = false ∧ s.busy = false ∧ s.offered = some w := by
  unfold State.accepted State.cmdReady
  cases s.rst <;> cases s.busy <;> simp

theorem phaseZero_of_accepted {s : State} {w : CmdWord} (h : s.accepted = some w) :
    phaseZero s = performed w s.takeInput := by
  simp [phaseZero, h]

theorem phaseZero_of_not_accepted {s : State} (h : s.accepted = none) : phaseZero s = s.takeInput := by
  simp [phaseZero, h]

theorem performed_of_decode {w : CmdWord} {i : Instr} (h : decode w = .ok i) (s : State) : performed w s = effect i s := by
  simp [performed, h]

theorem performed_of_illegal {w : CmdWord} {e : DecodeError} (h : decode w = .error e) (s : State) :
    performed w s = s.setErr .illegal := by
  simp [performed, h, State.illegalCommand]

/-- What phase 0 can do: nothing, a decoded command on a block that is not busy, or the illegal command. -/
theorem phaseZero_cases (s : State) :
    s.accepted = none ∧ phaseZero s = s.takeInput ∨
    (∃ w i, s.accepted = some w ∧ decode w = .ok i ∧ phaseZero s = effect i s.takeInput) ∨
    (∃ w e, s.accepted = some w ∧ decode w = .error e ∧ phaseZero s = s.takeInput.setErr .illegal) := by
  cases ha : s.accepted with
  | none => exact .inl ⟨rfl, phaseZero_of_not_accepted ha⟩
  | some w =>
    rw [phaseZero_of_accepted ha]
    cases hd : decode w with
    | ok i => exact .inr (.inl ⟨w, i, rfl, hd, performed_of_decode hd _⟩)
    | error e => exact .inr (.inr ⟨w, e, rfl, hd, performed_of_illegal hd _⟩)

/-! ## What a command leaves in each register -/

section
variable (f : FrameWord) (s : State)

@[simp] theorem startEmission_cmdHeld : (s.startEmission f).cmdHeld = s.cmdHeld := by
  by_cases h : s.period = 0
  · rw [startEmission_of_period_eq_zero h]
  · rw [startEmission_of_period_ne_zero h]
@[simp] theorem startEmission_native : (s.startEmission f).native = s.native := by
  by_cases h : s.period = 0
  · rw [startEmission_of_period_eq_zero h]
  · rw [startEmission_of_period_ne_zero h]
@[simp] theorem startEmission_frame : (s.startEmission f).frame = s.frame := by
  by_cases h : s.period = 0
  · rw [startEmission_of_period_eq_zero h]
  · rw [startEmission_of_period_ne_zero h]
@[simp] theorem startEmission_mode : (s.startEmission f).mode = s.mode := by
  by_cases h : s.period = 0
  · rw [startEmission_of_period_eq_zero h]
  · rw [startEmission_of_period_ne_zero h]
@[simp] theorem startEmission_period : (s.startEmission f).period = s.period := by
  by_cases h : s.period = 0
  · rw [startEmission_of_period_eq_zero h]
  · rw [startEmission_of_period_ne_zero h]
@[simp] theorem startEmission_oe : (s.startEmission f).oe = s.oe := by
  by_cases h : s.period = 0
  · rw [startEmission_of_period_eq_zero h]
  · rw [startEmission_of_period_ne_zero h]
@[simp] theorem startEmission_errIllegal : (s.startEmission f).errIllegal = s.errIllegal := by
  by_cases h : s.period = 0
  · rw [startEmission_of_period_eq_zero h]
  · rw [startEmission_of_period_ne_zero h]
@[simp] theorem startEmission_dshotOut : (s.startEmission f).dshotOut = s.dshotOut := by
  by_cases h : s.period = 0
  · rw [startEmission_of_period_eq_zero h]
  · rw [startEmission_of_period_ne_zero h]
@[simp] theorem startEmission_host : (s.startEmission f).host = s.host := by
  by_cases h : s.period = 0
  · rw [startEmission_of_period_eq_zero h]
  · rw [startEmission_of_period_ne_zero h]
@[simp] theorem startEmission_errNoOe : (s.startEmission f).errNoOe = (s.errNoOe || !s.oe) := by
  by_cases h : s.period = 0
  · rw [startEmission_of_period_eq_zero h]
  · rw [startEmission_of_period_ne_zero h]

end

/-- No command touches the ports' fields, and none of the sticky flags is cleared (spec/60_exceptions.md R141). -/
theorem effect_ports (i : Instr) (s : State) :
    (effect i s).host = s.host ∧ (effect i s).dshotOut = s.dshotOut ∧ (effect i s).errIllegal = s.errIllegal := by
  cases i with
  | cycle =>
    cases h : armTest config (sext32 s.cmdHeld)
    · rw [effect_cycle_active h]; simp
    · rw [effect_cycle_arming h]; simp
  | _ => simp [effect]

/-- A command that starts no emission leaves the sequencer as it was (spec/10_state.md R41). -/
theorem effect_of_not_emitting {i : Instr} (h : isEmitting i = false) (s : State) :
    (effect i s).busy = s.busy ∧ (effect i s).sym = s.sym ∧ (effect i s).hold = s.hold ∧ (effect i s).tx = s.tx := by
  cases i with
  | emit | emitIdle | cycle => cases h
  | _ => simp [effect]

/-- What a command does to the emitter and the timer, in three cases: an emitting command without a period starts nothing, one
with a period sends a frame, and any other command touches neither the emitter nor its flags, SETCMP alone the compare preload and
RELOAD alone the counter and the compare value in use. -/
theorem effect_kinds (i : Instr) (s : State) :
    (isEmitting i = true ∧ s.period = 0 ∧
      ((effect i s).tx = s.tx ∧ (effect i s).busy = s.busy ∧ (effect i s).sym = s.sym ∧ (effect i s).hold = s.hold) ∧
      (effect i s).ccrPre = s.ccrPre ∧ (effect i s).cnt = s.cnt ∧ (effect i s).ccrAct = s.ccrAct) ∨
    (isEmitting i = true ∧ s.period ≠ 0 ∧ ∃ f, frameSent s i = some f) ∨
    (isEmitting i = false ∧ (effect i s).errNoOe = s.errNoOe ∧ (effect i s).errPeriod = s.errPeriod ∧
      ((∃ v, i = .setCmp v) ∨ (effect i s).ccrPre = s.ccrPre) ∧
      (i = .reload ∨ (effect i s).cnt = s.cnt ∧ (effect i s).ccrAct = s.ccrAct)) := by
  cases i with
  | emit | emitIdle =>
    by_cases hp : s.period = 0
    · refine .inl ⟨rfl, hp, ?_⟩
      simp only [effect]
      rw [startEmission_of_period_eq_zero hp]
      exact ⟨⟨rfl, rfl, rfl, rfl⟩, rfl, rfl, rfl⟩
    · exact .inr (.inl ⟨rfl, hp, _, rfl⟩)
  | cycle =>
    by_cases hp : s.period = 0
    · refine .inl ⟨rfl, hp, ?_⟩
      cases hA : armTest config (sext32 s.cmdHeld)
      · rw [effect_cycle_active hA, startEmission_of_period_eq_zero (by exact hp)]
        exact ⟨⟨rfl, rfl, rfl, rfl⟩, rfl, rfl, rfl⟩
      · rw [effect_cycle_arming hA, startEmission_of_period_eq_zero (by exact hp)]
        exact ⟨⟨rfl, rfl, rfl, rfl⟩, rfl, rfl, rfl⟩
    · refine .inr (.inl ⟨rfl, hp, ?_⟩)
      unfold frameSent
      simp only
      split <;> exact ⟨_, rfl⟩
  | setCmp v => exact .inr (.inr ⟨rfl, rfl, rfl, .inl ⟨v, rfl⟩, .inr ⟨rfl, rfl⟩⟩)
  | reload => exact .inr (.inr ⟨rfl, rfl, rfl, .inr rfl, .inl rfl⟩)
  | _ => exact .inr (.inr ⟨rfl, rfl, rfl, .inr rfl, .inr ⟨rfl, rfl⟩⟩)

/-! ## The error flags are read by nothing (spec/60_exceptions.md R141) -/

/-- A state with other values in its three error flags. -/
abbrev withFlags (a b c : Bool) (s : State) : State := { s with errIllegal := a, errNoOe := b, errPeriod := c }

theorem startEmission_withFlags (f : FrameWord) (s : State) (a b c : Bool) :
    ∃ a' b' c', State.startEmission f (withFlags a b c s) = withFlags a' b' c' (s.startEmission f) := by
  by_cases h : s.period = 0
  · rw [startEmission_of_period_eq_zero h, startEmission_of_period_eq_zero (s := withFlags a b c s) h]
    exact ⟨_, _, _, rfl⟩
  · rw [startEmission_of_period_ne_zero h, startEmission_of_period_ne_zero (s := withFlags a b c s) h]
    exact ⟨_, _, _, rfl⟩

/-- Phases 1 to 3 carry the flags through. -/
theorem finishCycle_withFlags (a b c : Bool) (s : State) :
    (withFlags a b c s).finishCycle = withFlags a b c s.finishCycle := by
  have h1 : ∀ s : State, (withFlags a b c s).sequencerPhase = withFlags a b c s.sequencerPhase := by
    intro s
    unfold State.sequencerPhase
    simp only
    split
    · split <;> rfl
    · rfl
  have h2 : ∀ s : State, (withFlags a b c s).tickCounter = withFlags a b c s.tickCounter := by
    intro s
    unfold State.tickCounter
    simp only
    split
    · rfl
    · split <;> rfl
  have h3 : ∀ s : State, (withFlags a b c s).tickHold = withFlags a b c s.tickHold := by
    intro s
    unfold State.tickHold
    simp only
    split <;> rfl
  unfold State.finishCycle State.counterPhase
  rw [h1, ← h3, ← h2]
  rfl

/-! ## Runs -/

/-- The state after `k` steps. -/
def afterSteps : Nat → State → State
  | 0, s => s
  | k + 1, s => afterSteps k (afterStep s)

/-- A run through a step that answers a next state. -/
theorem run_succ_of_step {M : Host.Core} {s t : M.State} (h : M.step s = .next t) (k : Nat) :
    M.run (k + 1) s = M.run k t := by
  simp only [Host.Core.run, h]

theorem run_eq_afterSteps (k : Nat) (s : State) : Host.Core.run core k s = .next (afterSteps k s) := by
  induction k generalizing s with
  | zero => rfl
  | succ k ih => exact (run_succ_of_step (step_eq_afterStep s) k).trans (ih (afterStep s))

theorem afterSteps_add (j k : Nat) (s : State) : afterSteps (j + k) s = afterSteps k (afterSteps j s) := by
  induction j generalizing s with
  | zero => rw [Nat.zero_add]; rfl
  | succ j ih => rw [Nat.succ_add]; exact ih (afterStep s)

theorem afterSteps_succ (k : Nat) (s : State) : afterSteps (k + 1) s = afterStep (afterSteps k s) :=
  afterSteps_add k 1 s

end Sys2Proof.Machine
end

