-- ==== Sys2Proof/Laws/Mapper.lean ====
section
/-!
SUPPORT. The clamp and the mapper's parts (spec/00_scope.md R11, spec/40_throttle_mapper.md R80, R81).
-/

namespace Sys2Proof.Machine

/-- A clamped value is within its bounds. -/
theorem clamp_mem {x lo hi : Int} (h : lo ≤ hi) : lo ≤ clamp x lo hi ∧ clamp x lo hi ≤ hi := by
  unfold clamp
  split
  · omega
  · split <;> omega

theorem clamp_of_mem {x lo hi : Int} (h1 : lo ≤ x) (h2 : x ≤ hi) : clamp x lo hi = x := by
  unfold clamp
  split
  · omega
  · split <;> omega

theorem clamp_of_le {x lo hi : Int} (h : x ≤ lo) (hlh : lo ≤ hi) : clamp x lo hi = lo := by
  unfold clamp
  split
  · rfl
  · split <;> omega

theorem clamp_of_ge {x lo hi : Int} (h : hi ≤ x) (hlh : lo ≤ hi) : clamp x lo hi = hi := by
  unfold clamp
  split
  · omega
  · split <;> omega

theorem clamp_mono {x y lo hi : Int} (h : x ≤ y) (hlh : lo ≤ hi) : clamp x lo hi ≤ clamp y lo hi := by
  unfold clamp
  repeat' split
  all_goals omega

/-- The clamp changes nothing when it is applied twice. -/
theorem clamp_clamp {x lo hi : Int} (h : lo ≤ hi) : clamp (clamp x lo hi) lo hi = clamp x lo hi :=
  clamp_of_mem (clamp_mem h).1 (clamp_mem h).2

/-- MAPF looks at its input only through the clamp (spec/40_throttle_mapper.md R81). -/
theorem mapf_congr {cfg : Config} {c d : Int} (h : clampCmd cfg c = clampCmd cfg d) : mapf cfg c = mapf cfg d := by
  unfold mapf
  rw [h]

/-- The clamp at the instance's values. -/
theorem clampCmd_config (c : Int) : clampCmd config c = clamp c 1000 2000 := rfl

/-- MAPF at the instance's values. -/
theorem mapf_config (c : Int) : mapf config c = 48 + (2 * (clamp c 1000 2000 - 1000) * 1999 + 1000) / 2000 := rfl

/-- A number of 11 bits is kept whole by the native register's width. -/
theorem ofInt11_toNat {x : Int} (h0 : 0 ≤ x) (h1 : x ≤ 2047) : ((BitVec.ofInt 11 x).toNat : Int) = x := by
  rw [BitVec.toNat_ofInt]
  omega

/-- The instance's mapper stays in range (spec/40_throttle_mapper.md R82 (a)). -/
theorem mapf_config_range (c : Int) : 48 ≤ mapf config c ∧ mapf config c ≤ 2047 := by
  have hm := clamp_mem (x := c) (lo := 1000) (hi := 2000) (by decide)
  have hr := mapf_config c
  omega

/-- NATIVE holds the instance's mapper whole (spec/10_state.md R23). -/
theorem ofInt11_mapf_toNat (c : Int) : ((BitVec.ofInt 11 (mapf config c)).toNat : Int) = mapf config c := by
  have h := mapf_config_range c
  exact ofInt11_toNat (by omega) (by omega)

/-- ArmTest at the instance (spec/43_scheduler.md R130). -/
theorem armTest_config_iff (c : Int) : armTest config c = true ↔ c ≤ 1000 := by
  have h := clampCmd_config c
  have hm : config.cmdMin = 1000 := rfl
  unfold armTest
  rw [beq_iff_eq, h, hm]
  unfold clamp
  split
  · omega
  · split <;> omega

end Sys2Proof.Machine
end

