-- ==== Sys2Proof/Laws/Emission.lean ====
section
/-!
SUPPORT. One emission, tick by tick (spec/42_pulse_emitter.md R115): what the registers are in phase 2 of each of its cycles, how
one tick leads to the next, and how the last one ends it; and how the host's script moves.
-/

namespace Sys2Proof.Machine

open Sys2Proof.Safety

/-! ## The middle of a cycle -/

/-- The state phases 0 and 1 leave: the one phase 2 reads. -/
def midCycle (s : State) : State := (phaseZero s).sequencerPhase

/-- A cycle without reset is its middle, then phases 2 and 3. -/
theorem afterStep_eq_midCycle {s : State} (h : s.rst = false) : afterStep s = (midCycle s).outputPhase.counterPhase :=
  afterStep_of_not_rst h

/-- While BUSY = 1 the host reaches nothing: phase 0 only takes the input (spec/10_state.md R40). -/
theorem midCycle_of_busy {s : State} (h : s.busy = true) : midCycle s = s.takeInput.sequencerPhase := by
  unfold midCycle
  rw [phaseZero_of_not_accepted]
  simp [State.accepted, State.cmdReady, h]

/-! ## The host's script -/

theorem phaseZero_host (s : State) : (phaseZero s).host = s.hostNext := by
  rcases phaseZero_cases s with ⟨_, h⟩ | ⟨w, i, _, _, h⟩ | ⟨w, e, _, _, h⟩ <;> rw [h]
  · rfl
  · exact (effect_ports i _).1
  · rfl

/-- The script after a step, a reset cycle among them. -/
theorem afterStep_host (s : State) : (afterStep s).host = s.hostNext := by
  cases hr : s.rst
  · rw [afterStep_of_not_rst hr, finishCycle_host, phaseZero_host]
  · unfold afterStep
    rw [hr]
    rfl

/-- A step never adds to the script. -/
theorem hostNext_subset (s : State) : s.hostNext ⊆ s.host := by
  unfold State.hostNext
  cases s.host with
  | nil => simp
  | cons x xs =>
    cases x with
    | offer w => simp only; split <;> simp
    | _ => exact List.subset_cons_self _ _

/-- A busy block holds an offer (spec/10_state.md R40). -/
theorem hostNext_of_busy_offer {s : State} {w : CmdWord} {rest : List HostInput} (hb : s.busy = true)
    (h : s.host = .offer w :: rest) : s.hostNext = .offer w :: rest := by
  simp [State.hostNext, h, hb]

theorem rst_of_offer {s : State} {w : CmdWord} {rest : List HostInput} (h : s.host = .offer w :: rest) : s.rst = false := by
  simp [State.rst, h]

theorem rst_of_reset_not_mem {s : State} (h : HostInput.reset ∉ s.host) : s.rst = false := by
  unfold State.rst
  cases hh : s.host with
  | nil => rfl
  | cons x xs => cases x <;> simp_all

/-- NoReset, cycle by cycle. -/
theorem noReset_iff {n : Nat} {s : State} : NoReset n s ↔ ∀ k, k < n → (afterSteps k s).rst = false := by
  constructor
  · exact fun h k hk => h k _ hk (run_eq_afterSteps k s)
  · intro h k t hk ht
    rw [run_eq_afterSteps] at ht
    cases ht
    exact h k hk

theorem noReset_mono {m n : Nat} {s : State} (hmn : m ≤ n) (h : NoReset n s) : NoReset m s :=
  fun k t hk ht => h k t (Nat.lt_of_lt_of_le hk hmn) ht

theorem noReset_succ {n : Nat} {s : State} (h : NoReset n s) (hn : (afterSteps n s).rst = false) : NoReset (n + 1) s := by
  rw [noReset_iff] at h ⊢
  intro k hk
  rcases Nat.lt_succ_iff_lt_or_eq.mp hk with hk | rfl
  · exact h k hk
  · exact hn

/-- A script without a reset asserts none, for however long. -/
theorem noReset_of_reset_not_mem {s : State} (h : HostInput.reset ∉ s.host) (n : Nat) : NoReset n s := by
  have key : ∀ k, HostInput.reset ∉ (afterSteps k s).host := by
    intro k
    induction k with
    | zero => exact h
    | succ k ih =>
      rw [afterSteps_succ, afterStep_host]
      exact fun hm => ih (hostNext_subset _ hm)
  exact noReset_iff.mpr fun k _ => rst_of_reset_not_mem (key k)

/-! ## The ticks of an emission -/

/-- The registers in phase 2 of the cycle `n` cycles after the one that started the emission of `f` with period `p`, for
n < 16 * p: symbol n div p, tick n mod p of it. -/
structure AtTick (f : FrameWord) (p n : Nat) (u : State) : Prop where
  busy : u.busy = true
  tx : u.tx = f
  period : u.period.toNat = p
  sym : u.sym.toNat = n / p
  cnt : u.cnt.toNat = n % p
  hold : u.hold.toNat = p - n % p
  ccrPre : u.ccrPre = BitVec.ofNat 16 (symw config (symbolBit f (n / p)))
  ccrAct : u.ccrAct = BitVec.ofNat 16 (symw config (symbolBit f (n / p)))

/-- The cycle that starts an emission stands at its tick 0 (spec/42_pulse_emitter.md R110, R111). -/
theorem atTick_startEmission (f : FrameWord) {s : State} (hp : s.period ≠ 0) :
    AtTick f s.period.toNat 0 (s.startEmission f) := by
  rw [startEmission_of_period_ne_zero hp]
  refine ⟨rfl, rfl, rfl, ?_, ?_, ?_, ?_, ?_⟩ <;> simp [symbolWidth]

/-- The pin at a tick (spec/42_pulse_emitter.md R105, R115). -/
theorem pin_of_atTick {f : FrameWord} {p n : Nat} {u : State} (h : AtTick f p n u) :
    u.pin = (u.oe && decide (n % p < symw config (symbolBit f (n / p)))) := by
  have hw : ∀ b, symw config b < 2 ^ 16 := by decide
  unfold State.pin
  congr 1
  rw [decide_eq_decide, BitVec.lt_def, h.cnt, h.ccrAct, BitVec.toNat_ofNat, Nat.mod_eq_of_lt (hw _)]

/-- What phase 3 leaves of a tick: CNT and HOLD moved together, the compare values as they were (spec/42_pulse_emitter.md R103,
R115). -/
theorem counterPhase_of_atTick {f : FrameWord} {p n : Nat} {u : State} (hp : 0 < p) (h : AtTick f p n u) :
    u.outputPhase.counterPhase.ccrAct = u.ccrPre ∧ u.outputPhase.counterPhase.hold.toNat = p - 1 - n % p ∧
      u.outputPhase.counterPhase.cnt.toNat = if n % p = p - 1 then 0 else n % p + 1 := by
  have h1 := h.period
  have h2 := h.cnt
  have h3 := h.hold
  have hlt := Nat.mod_lt n hp
  have hper : u.outputPhase.period ≠ 0 := by
    intro h0
    rw [outputPhase_period] at h0
    rw [h0] at h1
    exact absurd h1 (by simpa using Nat.ne_of_lt hp)
  have hhold : u.outputPhase.counterPhase.hold.toNat = p - 1 - n % p := by
    rw [counterPhase_hold, outputPhase_busy, h.busy, if_pos rfl, outputPhase_hold]
    bv_omega
  refine ⟨?_, hhold, ?_⟩
  · rw [counterPhase_ccrAct]
    rcases tickCounter_cases u.outputPhase with ⟨_, e⟩ | ⟨_, e⟩ | ⟨_, e⟩ <;> rw [e]
    · exact h.ccrAct.trans h.ccrPre.symm
    · rfl
    · exact h.ccrAct.trans h.ccrPre.symm
  · rw [counterPhase_cnt]
    rcases tickCounter_cases u.outputPhase with ⟨h0, _⟩ | ⟨⟨_, hc⟩, e⟩ | ⟨⟨_, hc⟩, e⟩
    · exact absurd h0 hper
    · rw [e]
      simp only [outputPhase_period, outputPhase_cnt] at hc hper
      rw [if_pos (by bv_omega)]
      rfl
    · rw [e]
      simp only [outputPhase_period, outputPhase_cnt] at hc hper ⊢
      rw [if_neg (by bv_omega)]
      bv_omega

/-- A cycle that keeps BUSY, seen through phase 3 (spec/10_state.md R40: no command reaches it). -/
theorem counterPhase_keeps {f : FrameWord} {p n : Nat} {u : State} (h : AtTick f p n u) :
    u.outputPhase.counterPhase.busy = true ∧ u.outputPhase.counterPhase.tx = f ∧
      u.outputPhase.counterPhase.period.toNat = p ∧ u.outputPhase.counterPhase.sym.toNat = n / p := by
  simp [h.busy, h.tx, h.period, h.sym]

theorem succ_div_mod_of_last {p n : Nat} (hp : 0 < p) (h : n % p = p - 1) : (n + 1) / p = n / p + 1 ∧ (n + 1) % p = 0 := by
  have e : n + 1 = p * (n / p + 1) := by
    have := Nat.div_add_mod n p
    rw [Nat.mul_add]
    omega
  rw [e, Nat.mul_div_cancel_left _ hp, Nat.mul_mod_right]
  exact ⟨rfl, rfl⟩

theorem succ_div_mod_of_not_last {p n : Nat} (hp : 0 < p) (h : n % p ≠ p - 1) :
    (n + 1) / p = n / p ∧ (n + 1) % p = n % p + 1 := by
  have hlt := Nat.mod_lt n hp
  have := Nat.div_add_mod n p
  exact (Nat.div_mod_unique hp).mpr ⟨by omega, by omega⟩

/-- One tick leads to the next (spec/42_pulse_emitter.md R112, R115). -/
theorem atTick_succ {f : FrameWord} {p n : Nat} {u : State} (h : AtTick f p n u) (hn : n + 1 < 16 * p) :
    AtTick f p (n + 1) (midCycle u.outputPhase.counterPhase) := by
  have hp : 0 < p := by omega
  obtain ⟨ha, hh, hc⟩ := counterPhase_of_atTick hp h
  obtain ⟨hb, htx, hper, hsym⟩ := counterPhase_keeps h
  have hpre : u.outputPhase.counterPhase.ccrPre = u.ccrPre := by simp
  generalize u.outputPhase.counterPhase = t at *
  rw [midCycle_of_busy hb]
  by_cases hl : n % p = p - 1
  · obtain ⟨hd, hm⟩ := succ_div_mod_of_last hp hl
    have hlt : n / p + 1 < 16 := by
      rw [← hd]
      exact Nat.div_lt_of_lt_mul (by omega)
    have hs15 : t.takeInput.sym ≠ 15 := by
      intro h15
      rw [takeInput_sym] at h15
      rw [h15] at hsym
      have : (15 : SymIndex).toNat = 15 := rfl
      omega
    have hs1 : (t.sym + 1).toNat = n / p + 1 := by
      rw [BitVec.toNat_add, hsym]
      exact Nat.mod_eq_of_lt hlt
    rw [sequencerPhase_next (by exact hb) (by rw [takeInput_hold]; bv_omega) hs15]
    refine ⟨hb, htx, hper, ?_, ?_, ?_, ?_, ?_⟩
    · rw [hd]; exact hs1
    · rw [hm]; rfl
    · rw [hm]; exact hper
    · rw [hd, ← hs1, ← htx]; rfl
    · rw [hd, ← hs1, ← htx]; rfl
  · obtain ⟨hd, hm⟩ := succ_div_mod_of_not_last hp hl
    have hlt := Nat.mod_lt n hp
    rw [sequencerPhase_of_hold_ne_zero (by
      rw [takeInput_hold]
      intro h0
      rw [h0] at hh
      have : (0 : Timer).toNat = 0 := rfl
      omega)]
    rw [if_neg hl] at hc
    refine ⟨hb, htx, hper, ?_, ?_, ?_, ?_, ?_⟩
    · rw [hd]; exact hsym
    · rw [hm]; exact hc
    · rw [hm]; exact hh.trans (by omega)
    · rw [hd]; exact hpre.trans h.ccrPre
    · rw [hd]; exact ha.trans h.ccrPre

/-- The cycle after the last tick ends the emission (spec/42_pulse_emitter.md R112). -/
theorem midCycle_after_last {f : FrameWord} {p n : Nat} {u : State} (h : AtTick f p n u) (hn : n + 1 = 16 * p) :
    midCycle u.outputPhase.counterPhase = u.outputPhase.counterPhase.takeInput.endEmission := by
  have hp : 0 < p := by omega
  have hl : n % p = p - 1 ∧ n / p = 15 := by
    have e : n = p * 15 + (p - 1) := by omega
    have hu : n / p = 15 ∧ n % p = p - 1 := (Nat.div_mod_unique hp).mpr ⟨by omega, by omega⟩
    exact ⟨hu.2, hu.1⟩
  obtain ⟨_, hh, _⟩ := counterPhase_of_atTick hp h
  obtain ⟨hb, _, _, hsym⟩ := counterPhase_keeps h
  rw [midCycle_of_busy hb]
  apply sequencerPhase_last (by exact hb)
  · rw [takeInput_hold]
    apply BitVec.eq_of_toNat_eq
    rw [hh]
    show _ = 0
    omega
  · rw [takeInput_sym]
    apply BitVec.eq_of_toNat_eq
    rw [hsym, hl.2]
    rfl

/-! ## The run of an emission -/

/-- A step of a busy block leaves OE and the flags as they were. -/
theorem midCycle_flags_of_busy {s : State} (h : s.busy = true) :
    (midCycle s).oe = s.oe ∧ (midCycle s).errNoOe = s.errNoOe := by
  rw [midCycle_of_busy h]
  simp

/-- The cycle that accepts an emitting command, with a programmed period, stands at tick 0 of the frame it sends; OE is as before,
and ERR_NO_OE is set if it is 0 (spec/60_exceptions.md R143). -/
theorem atTick_zero {s : State} {f : FrameWord} (h : StartsEmission s f) :
    AtTick f s.period.toNat 0 (midCycle s) ∧ (midCycle s).oe = s.oe ∧ (midCycle s).errNoOe = (s.errNoOe || !s.oe) := by
  obtain ⟨w, i, ha, hd, hf, hp⟩ := h
  have hsent : ∃ u : State, u.period = s.period ∧ u.oe = s.oe ∧ u.errNoOe = s.errNoOe ∧
      phaseZero s = u.startEmission f := by
    rw [phaseZero_of_accepted ha, performed_of_decode hd]
    cases i with
    | emit => cases hf; exact ⟨s.takeInput, rfl, rfl, rfl, rfl⟩
    | emitIdle => cases hf; exact ⟨s.takeInput, rfl, rfl, rfl, rfl⟩
    | cycle =>
      cases hA : armTest config (sext32 s.takeInput.cmdHeld)
      · rw [effect_cycle_active hA]
        suffices hfr : encf config ((BitVec.ofInt 11 (mapf config (sext32 s.takeInput.cmdHeld))).toNat) false = f by
          rw [hfr]
          refine ⟨_, ?_, ?_, ?_, rfl⟩ <;> rfl
        have hgt : ¬ sext32 s.cmdHeld ≤ config.cmdMin := by
          intro hle
          have : armTest config (sext32 s.cmdHeld) = true := by
            unfold armTest clampCmd
            rw [clamp_of_le hle (by decide)]
            simp
          rw [takeInput_cmdHeld, this] at hA
          cases hA
        simp only [frameSent, if_neg hgt, Option.some.injEq] at hf
        rw [← hf, takeInput_cmdHeld]
        have hm := clamp_mem (x := sext32 s.cmdHeld) (lo := 1000) (hi := 2000) (by decide)
        have hr := mapf_config (sext32 s.cmdHeld)
        rw [ofInt11_toNat (by omega) (by omega)]
      · rw [effect_cycle_arming hA]
        refine ⟨s.takeInput.setMode .arming, rfl, rfl, rfl, ?_⟩
        congr 1
        have hle : sext32 s.cmdHeld ≤ config.cmdMin := by
          by_contra hgt
          have hA' : clamp (sext32 s.cmdHeld) 1000 2000 = 1000 := beq_iff_eq.mp hA
          rw [config_cmdMin] at hgt
          by_cases h2 : sext32 s.cmdHeld ≤ 2000
          · rw [clamp_of_mem (by omega) h2] at hA'; omega
          · rw [clamp_of_ge (by omega) (by decide)] at hA'; omega
        simp only [frameSent, if_pos hle, Option.some.injEq] at hf
        exact hf
    | map c | encode v t | setCmd c | setPeriod p | setCmp v | reload | enOut => cases hf
  obtain ⟨u, hup, huo, hue, hu⟩ := hsent
  have hat := atTick_startEmission f (s := u) (by rw [hup]; exact hp)
  have hmid : midCycle s = u.startEmission f := by
    unfold midCycle
    rw [hu]
    apply sequencerPhase_of_hold_ne_zero
    rw [startEmission_of_period_ne_zero (by rw [hup]; exact hp)]
    exact fun h0 => hp (hup ▸ h0)
  rw [hmid, ← hup, ← huo, ← hue]
  exact ⟨hat, by simp, by simp⟩

/-- The whole run of an emission: `n + 1` steps from the state that starts it stand at the end of its tick `n`, while the host
asserts no reset. -/
theorem emission_run {s : State} {f : FrameWord} (h : StartsEmission s f) (n : Nat) (hn : n < 16 * s.period.toNat)
    (hr : NoReset (n + 1) s) :
    ∃ u, AtTick f s.period.toNat n u ∧ u.oe = s.oe ∧ u.errNoOe = (s.errNoOe || !s.oe) ∧
      afterSteps (n + 1) s = u.outputPhase.counterPhase := by
  induction n with
  | zero =>
    obtain ⟨h0, ho, he⟩ := atTick_zero h
    exact ⟨_, h0, ho, he, afterStep_eq_midCycle (noReset_iff.mp hr 0 (by omega))⟩
  | succ n ih =>
    obtain ⟨u, hu, ho, he, hs⟩ := ih (by omega) (noReset_mono (by omega) hr)
    have hrst := noReset_iff.mp hr (n + 1) (by omega)
    obtain ⟨mo, me⟩ := midCycle_flags_of_busy (counterPhase_keeps hu).1
    refine ⟨_, atTick_succ hu hn, ?_, ?_, ?_⟩
    · rw [mo]; simpa using ho
    · rw [me]; simpa using he
    · rw [afterSteps_succ, afterStep_eq_midCycle hrst, hs]

/-- The cycle after the last tick of an emission: it has ended, and nothing is on the wire (spec/42_pulse_emitter.md R112). -/
theorem emission_end {s : State} {f : FrameWord} (h : StartsEmission s f) (hr : NoReset (16 * s.period.toNat + 1) s) :
    ∃ u : State, u.busy = false ∧ u.ccrPre = 0 ∧ u.ccrAct = 0 ∧ u.oe = s.oe ∧ u.errNoOe = (s.errNoOe || !s.oe) ∧
      afterSteps (16 * s.period.toNat + 1) s = u.outputPhase.counterPhase := by
  have hp : 0 < s.period.toNat := by
    obtain ⟨_, _, _, _, _, hp⟩ := h
    exact Nat.pos_of_ne_zero fun h0 => hp (BitVec.eq_of_toNat_eq h0)
  obtain ⟨u, hu, ho, he, hs⟩ := emission_run h (16 * s.period.toNat - 1) (by omega) (noReset_mono (by omega) hr)
  rw [show 16 * s.period.toNat - 1 + 1 = 16 * s.period.toNat by omega] at hs
  have hrst := noReset_iff.mp hr (16 * s.period.toNat) (by omega)
  refine ⟨u.outputPhase.counterPhase.takeInput.endEmission, rfl, rfl, rfl, ?_, ?_, ?_⟩
  · simpa [endEmission_eq] using ho
  · simpa [endEmission_eq] using he
  · rw [afterSteps_succ, afterStep_eq_midCycle hrst, hs, midCycle_after_last hu (by omega)]

/-- A reset behind an offer that the emission holds is asserted in none of its cycles (spec/10_state.md R40). -/
theorem noReset_of_held {s : State} {f : FrameWord} {w w' : CmdWord} {rest : List HostInput} (h : StartsEmission s f)
    (hh : s.host = .offer w :: .offer w' :: rest) : NoReset (16 * s.period.toNat + 1) s := by
  have hb : s.busy = false := by
    obtain ⟨_, _, ha, _⟩ := h
    exact (accepted_eq_some_iff.mp ha).2.1
  have key : ∀ n, n ≤ 16 * s.period.toNat → NoReset (n + 1) s ∧
      (0 < n → (afterSteps n s).busy = true ∧ (afterSteps n s).host = .offer w' :: rest) := by
    intro n hn
    induction n with
    | zero => exact ⟨noReset_succ (fun _ _ hk => absurd hk (by omega)) (rst_of_offer hh), fun h0 => absurd h0 (by omega)⟩
    | succ n ih =>
      obtain ⟨hr, hheld⟩ := ih (by omega)
      obtain ⟨u, hu, _, _, hs⟩ := emission_run h n (by omega) hr
      have hhost : (afterSteps (n + 1) s).host = .offer w' :: rest := by
        rw [afterSteps_succ, afterStep_host]
        rcases Nat.eq_zero_or_pos n with rfl | hpos
        · show s.hostNext = _
          simp [State.hostNext, hh, hb]
        · exact hostNext_of_busy_offer (hheld hpos).1 (hheld hpos).2
      exact ⟨noReset_succ hr (rst_of_offer hhost), fun _ => ⟨hs ▸ (counterPhase_keeps hu).1, hhost⟩⟩
  exact (key _ (Nat.le_refl _)).1

end Sys2Proof.Machine
end

