-- ==== Sys2Proof/Laws/Frame.lean ====
section
/-!
SUPPORT. The frame word as a number, and the fields and nibbles of a packed frame (spec/30_encoding.md R60,
spec/41_frame_encoder.md R91 to R93).
-/

namespace Sys2Proof.Machine

theorem qWord_toNat (v : Native) (t : Bool) : (qWord v t).toNat = v.toNat * 2 + t.toNat := by
  unfold qWord
  rw [BitVec.toNat_append, ← Nat.shiftLeft_add_eq_or_of_lt (BitVec.isLt _), Nat.shiftLeft_eq, BitVec.toNat_ofBool]

theorem packFrame_toNat (v : Native) (t : Bool) :
    (packFrame v t).toNat = (qWord v t).toNat * 16 + (csumf v t).toNat := by
  unfold packFrame
  rw [BitVec.toNat_append, ← Nat.shiftLeft_add_eq_or_of_lt (BitVec.isLt _), Nat.shiftLeft_eq]

/-- The checksum on integers: (Q xor (Q >> 4) xor (Q >> 8)) & 0xF (spec/41_frame_encoder.md R92). -/
theorem nibbleXor_toNat (q : BitVec 12) :
    (nibbleXor q).toNat = (q.toNat ^^^ (q.toNat >>> 4) ^^^ (q.toNat >>> 8)) % 16 := by
  unfold nibbleXor
  simp only [BitVec.toNat_xor, BitVec.extractLsb'_toNat, Nat.shiftRight_zero]
  rw [show (16 : Nat) = 2 ^ 4 from rfl, Nat.xor_mod_two_pow, Nat.xor_mod_two_pow]
  ac_rfl

section
variable (v : Native) (t : Bool)

@[simp] theorem frameValue_packFrame : frameValue (packFrame v t) = v := by
  apply BitVec.eq_of_toNat_eq
  have := (csumf v t).isLt; have := v.isLt; have := Bool.toNat_lt t
  unfold frameValue
  rw [BitVec.extractLsb'_toNat, packFrame_toNat, qWord_toNat, Nat.shiftRight_eq_div_pow]
  omega

@[simp] theorem frameTelem_packFrame : frameTelem (packFrame v t) = t := by
  have := (csumf v t).isLt; have := v.isLt; have := Bool.toNat_lt t
  have h : (frameTelem (packFrame v t)).toNat = t.toNat := by
    unfold frameTelem
    rw [← BitVec.testBit_toNat, Nat.toNat_testBit, packFrame_toNat, qWord_toNat]
    omega
  revert h
  cases frameTelem (packFrame v t) <;> cases t <;> simp

@[simp] theorem frameCsum_packFrame : frameCsum (packFrame v t) = csumf v t := by
  apply BitVec.eq_of_toNat_eq
  have := (csumf v t).isLt
  unfold frameCsum
  rw [BitVec.extractLsb'_toNat, packFrame_toNat, Nat.shiftRight_zero]
  omega

/-- The first three nibbles of a packed frame are exactly Q's (spec/41_frame_encoder.md R98). -/
theorem packFrame_nibble (k : Nat) :
    (packFrame v t).extractLsb' (k + 4) 4 = (qWord v t).extractLsb' k 4 := by
  apply BitVec.eq_of_toNat_eq
  have := (csumf v t).isLt
  rw [BitVec.extractLsb'_toNat, BitVec.extractLsb'_toNat, packFrame_toNat, Nat.shiftRight_eq_div_pow,
    Nat.shiftRight_eq_div_pow, Nat.add_comm k 4, Nat.pow_add, ← Nat.div_div_eq_div_mul]
  congr 2
  omega

end

end Sys2Proof.Machine
end

