-- ==== Sys2Proof/Laws/PerInstr.lean ====
section
/-!
SUPPORT. Laws about every command as a term, one lemma a constructor. Family TableRow: the word of a command belongs to its row
of spec/opcode_table.json, and carries the opcode of spec/30_encoding.md R66 with RSV = 0.
-/

namespace Sys2Proof.Laws.TableRow

open Sys2Proof

/-- Every mask of the table keeps the bits from some bit `k` up: under it a word is `2 ^ k` times the number its upper bits
write. -/
theorem matches_iff {r : OpcodeRow} {k : Nat} (hm : r.mask = BitVec.allOnes 64 <<< k) (w : CmdWord) :
    r.Matches w ↔ w.toNat / 2 ^ k * 2 ^ k = r.pattern.toNat := by
  have h : w &&& r.mask = BitVec.ofNat 64 (w.toNat / 2 ^ k * 2 ^ k) := by
    rw [hm]
    apply BitVec.eq_of_getLsbD_eq
    intro i hi
    simp only [BitVec.getLsbD_and, BitVec.getLsbD_shiftLeft, BitVec.getLsbD_allOnes, BitVec.getLsbD_ofNat, hi,
      Nat.testBit_mul_two_pow, Nat.testBit_div_two_pow]
    by_cases hk : i < k
    · simp [hk]
    · rw [show i - k + k = i by omega, BitVec.testBit_toNat]
      simp [hk, show i - k < 64 by omega, Nat.le_of_not_lt hk]
  have hle : w.toNat / 2 ^ k * 2 ^ k < 2 ^ 64 := Nat.lt_of_le_of_lt (Nat.div_mul_le_self _ _) w.isLt
  unfold OpcodeRow.Matches
  rw [h, ← BitVec.toNat_inj, BitVec.toNat_ofNat, Nat.mod_eq_of_lt hle]

/-- The command's word has its row's bits under its row's mask, the row is one of the table's, and the word's OPC and RSV are as
R64 and R66 say. -/
def Statement (i : Instr) : Prop :=
  i.row.Matches (encode i) ∧ i.row ∈ opcodeTable ∧ opcOf (encode i) = i.opc ∧ rsvOf (encode i) = 0

/-- The row's bits, from the number of the word. -/
theorem statement_of {i : Instr} (k : Nat) (hm : i.row.mask = BitVec.allOnes 64 <<< k)
    (hp : (i.opc.toNat * 2 ^ 56 + i.telem.toNat * 2 ^ 32 + i.imm.toNat) / 2 ^ k * 2 ^ k = i.row.pattern.toNat)
    (ht : i.row ∈ opcodeTable) : Statement i := by
  refine ⟨(matches_iff hm _).mpr ?_, ht, opcOf_cmdWord _ _ _, rsvOf_cmdWord _ _ _⟩
  unfold encode
  rw [cmdWord_toNat]
  exact hp

theorem map (c : Imm) : Statement (.map c) :=
  statement_of 32 rfl (by
    show (0x01 * 2 ^ 56 + 0 * 2 ^ 32 + c.toNat) / _ * _ = 0x0100000000000000
    have := c.isLt
    omega) (by simp [opcodeTable, Instr.row])

theorem encode (v : Imm) (t : Bool) : Statement (.encode v t) :=
  statement_of 33 rfl (by
    show (0x02 * 2 ^ 56 + t.toNat * 2 ^ 32 + v.toNat) / _ * _ = 0x0200000000000000
    have := v.isLt
    have := Bool.toNat_lt t
    omega) (by simp [opcodeTable, Instr.row])

theorem emit : Statement .emit :=
  statement_of 0 rfl rfl (by simp [opcodeTable, Instr.row])

theorem emitIdle : Statement .emitIdle :=
  statement_of 0 rfl rfl (by simp [opcodeTable, Instr.row])

theorem setCmd (c : Imm) : Statement (.setCmd c) :=
  statement_of 32 rfl (by
    show (0x05 * 2 ^ 56 + 0 * 2 ^ 32 + c.toNat) / _ * _ = 0x0500000000000000
    have := c.isLt
    omega) (by simp [opcodeTable, Instr.row])

theorem cycle : Statement .cycle :=
  statement_of 0 rfl rfl (by simp [opcodeTable, Instr.row])

theorem setPeriod (p : Timer) : Statement (.setPeriod p) :=
  statement_of 16 rfl (by
    show (0x10 * 2 ^ 56 + 0 * 2 ^ 32 + (p.setWidth 32).toNat) / _ * _ = 0x1000000000000000
    have := p.isLt
    rw [BitVec.toNat_setWidth]
    omega) (by simp [opcodeTable, Instr.row])

theorem setCmp (p : Timer) : Statement (.setCmp p) :=
  statement_of 16 rfl (by
    show (0x11 * 2 ^ 56 + 0 * 2 ^ 32 + (p.setWidth 32).toNat) / _ * _ = 0x1100000000000000
    have := p.isLt
    rw [BitVec.toNat_setWidth]
    omega) (by simp [opcodeTable, Instr.row])

theorem reload : Statement .reload :=
  statement_of 0 rfl rfl (by simp [opcodeTable, Instr.row])

theorem enOut : Statement .enOut :=
  statement_of 0 rfl rfl (by simp [opcodeTable, Instr.row])

end Sys2Proof.Laws.TableRow
end

