-- ==== Sys2Proof/Tests/Slice0.lean ====
section
/-!
SUPPORT. Tests. Expected values come from spec/95_test_vectors.md and from the rules it cites; the witnesses at the end show that
the hypotheses of the statements are met.
-/

namespace Sys2Proof.Tests

open Sys2Proof.Machine Sys2Proof.Safety

/-! ## Helpers -/

/-- The state of an outcome. -/
def outState : Host.Outcome State Fault Refusal → Option State
  | .next s => some s
  | .fault _ => none
  | .refused _ => none

/-- The state after SETUP: PERIOD = 240, OE = 1. -/
def booted : State := { State.reset with period := 240, oe := true }

/-- The host offers `w` in the coming cycle. -/
def offering (w : CmdWord) (s : State) : State := { s with host := [.offer w] }

/-- In symbol 3 (a zero, 90 ticks) of the emission of 0x830B, 100 ticks left of it. -/
def emitting : State :=
  { booted with frame := 0x830B, tx := 0x830B, sym := 3, hold := 100, busy := true, cnt := 140, ccrPre := 90, ccrAct := 90 }

/-- The end of cycle 3842 of program P1: the last tick of symbol 15 is over. -/
def lastTick : State :=
  { booted with frame := 0x830B, tx := 0x830B, sym := 15, hold := 0, busy := true, cnt := 0, ccrPre := 180, ccrAct := 180 }

/-- A free-running compare value of 60 (program P5). -/
def pulsing : State := { booted with ccrPre := 60, ccrAct := 60, cnt := 238 }

/-! ## WellFormed: each check refuses an ill-formed term (spec/30_encoding.md R67 (e)) -/

theorem test_wellFormed_refuses_period_zero : (Instr.setPeriod 0).wellFormed = false := by decide
theorem test_wellFormed_takes_period_bounds :
    (Instr.setPeriod 1).wellFormed = true ∧ (Instr.setPeriod 65535).wellFormed = true := by decide

/-! ## Decoding: words written out field by field, OPC, RSV, T, IMM (spec/30_encoding.md R64, R66) -/

theorem test_decode_map :
    decode (0b00000001#8 ++ 0b00000000000000000000000#23 ++ 0b0#1 ++ 0b00000000000000000000010111011100#32) =
      .ok (.map 1500) := by decide
theorem test_decode_encode :
    decode (0b00000010#8 ++ 0b00000000000000000000000#23 ++ 0b1#1 ++ 0b00000000000000000000011111111111#32) =
      .ok (.encode 2047 true) := by decide
theorem test_decode_emit :
    decode (0b00000011#8 ++ 0b00000000000000000000000#23 ++ 0b0#1 ++ 0b00000000000000000000000000000000#32) =
      .ok .emit := by decide
theorem test_decode_emitIdle :
    decode (0b00000100#8 ++ 0b00000000000000000000000#23 ++ 0b0#1 ++ 0b00000000000000000000000000000000#32) =
      .ok .emitIdle := by decide
theorem test_decode_setCmd :
    decode (0b00000101#8 ++ 0b00000000000000000000000#23 ++ 0b0#1 ++ 0b10000000000000000000000000000000#32) =
      .ok (.setCmd (-2147483648)) := by decide
theorem test_decode_cycle :
    decode (0b00000110#8 ++ 0b00000000000000000000000#23 ++ 0b0#1 ++ 0b00000000000000000000000000000000#32) =
      .ok .cycle := by decide
theorem test_decode_setPeriod :
    decode (0b00010000#8 ++ 0b00000000000000000000000#23 ++ 0b0#1 ++ 0b00000000000000000000000011110000#32) =
      .ok (.setPeriod 240) := by decide
theorem test_decode_setCmp :
    decode (0b00010001#8 ++ 0b00000000000000000000000#23 ++ 0b0#1 ++ 0b00000000000000001111111111111111#32) =
      .ok (.setCmp 65535) := by decide
theorem test_decode_reload :
    decode (0b00010010#8 ++ 0b00000000000000000000000#23 ++ 0b0#1 ++ 0b00000000000000000000000000000000#32) =
      .ok .reload := by decide
theorem test_decode_enOut :
    decode (0b00010011#8 ++ 0b00000000000000000000000#23 ++ 0b0#1 ++ 0b00000000000000000000000000000000#32) =
      .ok .enOut := by decide

/-- spec/95_test_vectors.md 2.7: the illegal words, each with the condition it breaks. -/
theorem test_decode_illegal_words :
    decode 0x0000000000000000 = .error .reservedOpcode ∧ decode 0x0700000000000000 = .error .reservedOpcode ∧
    decode 0x1400000000000000 = .error .reservedOpcode ∧ decode 0xFF00000000000000 = .error .reservedOpcode ∧
    decode 0x0100000200000000 = .error .reservedField ∧ decode 0x0280000000000000 = .error .reservedField ∧
    decode 0x0100000100000000 = .error .telemetryBit ∧ decode 0x0600000100000000 = .error .telemetryBit ∧
    decode 0x0300000000000001 = .error .operandPresent ∧ decode 0x1300000000000001 = .error .operandPresent ∧
    decode 0x1000000000000000 = .error .periodRange ∧ decode 0x1000000000010000 = .error .periodRange ∧
    decode 0x1100000000010000 = .error .compareRange := by decide

/-- spec/95_test_vectors.md 2.7: the edge-legal words. -/
theorem test_decode_edge_legal_words :
    decode 0x1000000000000001 = .ok (.setPeriod 1) ∧ decode 0x100000000000FFFF = .ok (.setPeriod 65535) ∧
    decode 0x1100000000000000 = .ok (.setCmp 0) ∧ decode 0x0200000100000000 = .ok (.encode 0 true) := by decide

theorem test_decodeTableWord :
    decodeTableWord 64 0x0100000000000000 = some (.map 0) ∧ decodeTableWord 64 0x1300000000000000 = some .enOut ∧
    decodeTableWord 64 0x1000000000000000 = none ∧ decodeTableWord 72 0x010300000000000000 = none := by decide

/-! ## One step of each command -/

theorem test_map_tie_rounds_up :
    (outState (step (offering 0x01000000000005DC State.reset))).map State.native = some 1048 := by decide
theorem test_map_1499_rounds_down : (outState (exec (.map 1499) State.reset)).map State.native = some 1046 := by decide
theorem test_encode_1234_telemetry :
    (outState (step (offering 0x02000001000004D2 State.reset))).map State.frame = some 0x9A56 := by decide
theorem test_encode_clamps_negative :
    (outState (exec (.encode (-7) true) State.reset)).map State.frame = some 0x0617 := by decide
/-- P1 cycle 3: the frame is latched, its first symbol is a one, and the counter has moved. -/
theorem test_emit_starts :
    (outState (step (offering 0x0300000000000000 { booted with frame := 0x830B, cnt := 3 }))).map
      (fun s => (s.tx, s.sym, s.hold, s.cnt)) = some (0x830B, 0, 239, 1) := by decide
/-- 2.6: without PERIOD and OE both flags are set, STATUS = 0x60. -/
theorem test_emit_without_period :
    (outState (step (offering 0x0300000000000000 State.reset))).map State.statusOut = some 0x60 := by decide
/-- P7 cycle 1: STATUS = 0x21 and the pin low. -/
theorem test_emitIdle_without_output :
    (outState (step (offering 0x0400000000000000 { State.reset with period := 240 }))).map
      (fun s => (s.statusOut, s.dshotOut)) = some (0x21, false) := by decide
/-- FRAME is not written, the idle frame is sent. -/
theorem test_emitIdle_keeps_frame :
    (outState (exec .emitIdle { booted with frame := 0x830B })).map (fun s => (s.tx, s.frame, s.ccrAct)) =
      some (0x0000, 0x830B, 90) := by decide
theorem test_setCmd_unclamped :
    (outState (exec (.setCmd 0x80000000) State.reset)).map (fun s => (s.cmdHeld.toInt, s.statusOut)) =
      some (-2147483648, 0x00) := by decide
/-- 2.4: 1001 is the smallest ACTIVE value. -/
theorem test_cycle_active :
    (outState (exec .cycle { booted with cmdHeld := 1001 })).map (fun s => (s.mode, s.native, s.frame, s.tx)) =
      some (.active, 50, 0x0642, 0x0642) := by decide
/-- 2.4: below the minimum is ARMING, NATIVE and FRAME are kept. -/
theorem test_cycle_arming :
    (outState (exec .cycle { booted with cmdHeld := -5, native := 1048, frame := 0x830B, mode := .active })).map
      (fun s => (s.mode, s.native, s.frame, s.tx)) = some (.arming, 1048, 0x830B, 0x0000) := by decide
/-- 2.5: CNT = 1 at the end of the accepting cycle. -/
theorem test_setPeriod_counts_at_once :
    (outState (step (offering 0x10000000000000F0 State.reset))).map (fun s => (s.period, s.cnt)) = some (240, 1) := by decide
/-- 2.5: at CNT = 100, SETPERIOD 50 wraps the counter with an update event. -/
theorem test_setPeriod_wraps :
    (outState (step (offering 0x1000000000000032 { booted with cnt := 100, ccrPre := 7 }))).map
      (fun s => (s.cnt, s.ccrAct)) = some (0, 7) := by decide
/-- P6: the pin waits for the wrap. -/
theorem test_setCmp_waits :
    (outState (step (offering 0x110000000000003C { booted with cnt := 1 }))).map
      (fun s => (s.ccrPre, s.ccrAct, s.dshotOut)) = some (60, 0, false) := by decide
/-- P5 cycle 3: the value is applied and the pin high in the same cycle. -/
theorem test_reload_applies :
    (outState (step (offering 0x1200000000000000 { booted with cnt := 3, ccrPre := 60 }))).map
      (fun s => (s.ccrAct, s.cnt, s.dshotOut)) = some (60, 1, true) := by decide
/-- 2.5: with PERIOD = 0 the counter stays at 0 and the pin is high. -/
theorem test_reload_without_period :
    (outState (step (offering 0x1200000000000000 { State.reset with oe := true, ccrPre := 5 }))).map
      (fun s => (s.ccrAct, s.cnt, s.dshotOut)) = some (5, 0, true) := by decide
theorem test_enOut_status :
    (outState (step (offering 0x1300000000000000 State.reset))).map (fun s => (s.statusOut, s.dshotOut)) =
      some (0x04, false) := by decide

/-! ## The cycle -/

/-- P1: the state at the end of cycle 3843. -/
theorem test_emission_ends :
    outState (step lastTick) = some { booted with frame := 0x830B, tx := 0x830B, cnt := 1 } := by decide
/-- A word offered while BUSY = 1 is held, and the emission goes on. -/
theorem test_offer_is_held :
    (outState (step (offering 0x01000000000005DC emitting))).map (fun s => (s.host, s.native, s.hold)) =
      some ([.offer 0x01000000000005DC], 48, 99) := by decide
/-- 2.7: an illegal word sets ERR_ILLEGAL only, even with PERIOD = 0 and OE = 0. -/
theorem test_illegal_word :
    outState (step (offering 0x0700000000000000 State.reset)) = some { State.reset with errIllegal := true } := by decide
/-- 2.8: reset inside an emission. -/
theorem test_reset_during_emission :
    outState (step { emitting with host := [.reset], errNoOe := true }) = some State.reset := by decide
/-- The interface's placement: from reset, and in a state that is emitting. -/
theorem test_withFetchWord :
    (outState (step (State.reset.withFetchWord 64 0x1300000000000000))).map State.oe = some true ∧
    (outState (step (emitting.withFetchWord 64 0x01000000000005DC))).map State.native = some 1048 := by decide
/-- Loading words on the command port. -/
theorem test_load :
    (State.load [0x1300000000000000, 0x0400000000000000] State.reset).host =
      [.offer 0x1300000000000000, .offer 0x0400000000000000] := by decide
/-- R171's table, and the waveform at ticks 179 and 180 of frame 0x830B (P1). -/
theorem test_timing :
    cyclesToNextAccept booted .emit = 3841 ∧ cyclesToNextAccept State.reset .emit = 1 ∧
    cyclesToNextAccept booted (.map 0) = 1 ∧ waveform 0x830B 240 179 = true ∧ waveform 0x830B 240 180 = false ∧
    waveform 0x830B 240 3840 = false := by decide
/-- A frame word's fields and the receiver's check (spec/30_encoding.md R63). -/
theorem test_frame_fields :
    frameValue 0x830B = 1048 ∧ frameTelem 0x831A = true ∧ frameCsum 0x831A = 0xA ∧ FrameValid 0x9A56 ∧
    ¬ FrameValid 0x9A57 := by decide
theorem test_config : config.WellFormed ∧ config.KeepsRatios := by decide

/-! ## The assembler (spec/30_encoding.md R71, R72) -/

theorem test_assemble_signed :
    assemble ["MAP -1".toList, "ENCODE 2047, 1 ; full".toList, "SETCMP 0x3C".toList] =
      .ok [0x01000000FFFFFFFF, 0x02000001000007FF, 0x110000000000003C] := by decide
theorem test_assemble_pseudo :
    assemble ["SETUP".toList, "THROTTLE 1250".toList, "SENDT 1234".toList] =
      .ok [0x10000000000000F0, 0x1300000000000000, 0x05000000000004E2, 0x0600000000000000, 0x02000001000004D2,
        0x0300000000000000] := by decide
theorem test_assemble_refuses :
    assembleLine "SETPERIOD 0".toList = .error .operandRange ∧ assembleLine "ENCODE 5, 2".toList = .error .operandRange ∧
    assembleLine "EMIT 1".toList = .error .operandCount ∧ assembleLine "NOP".toList = .error .unknownMnemonic ∧
    assembleLine "MAP x".toList = .error .notAnInteger := by decide

/-! ## Witnesses: each meets all the hypotheses of the statement it is named after, clause by clause -/

theorem test_witness_DecodeOfEncode :
    (Instr.map (-1)).WellFormed ∧ (Instr.encode 0x80000000 true).WellFormed ∧ Instr.emit.WellFormed ∧
    (Instr.setPeriod 1).WellFormed ∧ (Instr.setPeriod 65535).WellFormed ∧ (Instr.setCmp 0).WellFormed := by decide
theorem test_witness_EncodeOfDecode : decode 0x02000001FFFFFFF9 = .ok (.encode (-7) true) := by decide
theorem test_witness_DecodesExactlyTheLegalWords : LegalWord 0x100000000000FFFF ∧ ¬ LegalWord 0x1000000000010000 := by
  unfold LegalWord
  decide
theorem test_witness_OpcodeTableDecidesEveryWord :
    decode 0x1000000000000001 = .ok (.setPeriod 1) ∧
    ((Instr.setPeriod 1).row ∈ opcodeTable ∧ (Instr.setPeriod 1).row.Matches 0x1000000000000000 ∧
      (Instr.setPeriod 1).row.Matches 0x1000000000000001) := by
  unfold OpcodeRow.Matches
  decide

/-- EMIT offered to a booted block. -/
def emitOffered : State := offering 0x0300000000000000 { booted with frame := 0x830B }

/-- EMITIDLE offered with PERIOD programmed and OE = 0. -/
def idleOffered : State := offering 0x0400000000000000 { State.reset with period := 240 }

theorem test_witness_StepRunsDecodedCommand :
    (emitOffered.accepted = some 0x0300000000000000 ∧ decode 0x0300000000000000 = .ok .emit) ∧
    (booted.rst = false ∧ booted.accepted = none) := by decide
theorem test_witness_IllegalWordOnlySetsItsFlag :
    (offering 0x0700000000000000 State.reset).accepted = some 0x0700000000000000 ∧ ¬ LegalWord 0x0700000000000000 := by
  unfold LegalWord
  decide
theorem test_witness_HandshakeHoldsCommandsWhileBusy :
    (emitting.rst = false ∧ emitting.busy = true) ∧
    (∃ t, (offering 0x1300000000000000 emitting).busy = true ∧
      (offering 0x1300000000000000 emitting).host = .offer 0x1300000000000000 :: [] ∧
      step (offering 0x1300000000000000 emitting) = .next t) ∧
    (∃ t t', emitting.busy = true ∧ emitting.rst = false ∧
      State.rst { emitting with host := [.offerOnce 0x1300000000000000] } = false ∧ step emitting = .next t ∧
      step { emitting with host := [.offerOnce 0x1300000000000000] } = .next t') :=
  ⟨by decide, ⟨_, by decide, by decide, step_eq_afterStep _⟩,
    ⟨_, _, by decide, by decide, by decide, step_eq_afterStep _, step_eq_afterStep _⟩⟩
theorem test_witness_ResetCyclesGiveTheResetState :
    ({ emitting with host := [.reset, .reset, .idle] } : State).host = List.replicate (1 + 1) .reset ++ [.idle] := by decide

/-! ### The commands -/

theorem test_witness_MapResult :
    ((999 : Imm).toInt < 1000 ∧ (0x80000000 : Imm).toInt < 1000) ∧
    (2000 < (2001 : Imm).toInt ∧ 2000 < (0x7FFFFFFF : Imm).toInt) ∧ (1500 : Imm) = 1500 := by decide
theorem test_witness_EncodeResult :
    ((47 : Imm).toInt < 48 ∧ (-5 : Imm).toInt < 48) ∧ 2047 < (2048 : Imm).toInt ∧ ((1024 : Imm) = 1024 ∧ false = false) := by
  decide
theorem test_witness_EmitResult : booted.period ≠ 0 ∧ State.reset.period = 0 := by decide
theorem test_witness_EmitIdleResult : ({ booted with period := 1 } : State).period ≠ 0 ∧ State.reset.period = 0 := by decide
theorem test_witness_CycleResult :
    (((50 : Native).toNat : Int) = mapf config (1001 : Imm).toInt ∧ (0x0642 : FrameWord) = encf config (50 : Native).toNat false ∧
      1000 < (1001 : Imm).toInt) ∧
    (((48 : Native).toNat : Int) = mapf config (1000 : Imm).toInt ∧ (0x0606 : FrameWord) = encf config (48 : Native).toNat false ∧
      (1000 : Imm).toInt ≤ 1000) ∧
    (∀ c, ({ booted with cmdHeld := c } : State).period ≠ 0) ∧ (∀ c, ({ State.reset with cmdHeld := c } : State).period = 0) :=
  ⟨by decide, by decide, fun _ => (by decide : booted.period ≠ 0), fun _ => rfl⟩

/-! ### Mapper and encoder -/

/-- A second configuration: the rules of the mapper and the encoder hold of every well-formed one. -/
def widest : Config := { config with cmdMin := -2 ^ 31, cmdMax := 2 ^ 31 - 1, natMin := 0 }

theorem test_witness_MapperRoundsHalfUp : config.WellFormed ∧ widest.WellFormed := by decide
theorem test_witness_MapperRangeEndsAndOrder :
    config.WellFormed ∧ (999 < config.cmdMin ∧ config.cmdMax < 2001 ∧ (1000 : Int) ≤ 1001) ∧
    ((1000 : Int) ≤ 1000 ∧ (1000 : Int) ≤ 2000 ∧ (1000 : Int) ≤ 2000 ∧ (2000 : Int) ≤ 2000) ∧
    mapf config 1000 = mapf config 1000 := by decide
theorem test_witness_EncoderFrameLayout : config.WellFormed ∧ widest.WellFormed := by decide
theorem test_witness_EncoderIsOneToOne :
    config.WellFormed ∧ config.natMin ≤ 48 ∧ 48 ≤ config.natMax ∧ config.natMin ≤ 2047 ∧ 2047 ≤ config.natMax ∧
    encf config 2047 true = encf config 2047 true := by decide

theorem inv_emitOffered : Inv emitOffered := ⟨by decide, by decide, by decide, by decide⟩
theorem inv_emitting : Inv emitting := ⟨by decide, by decide, by decide, by decide⟩
theorem starts_emitOffered : StartsEmission emitOffered 0x830B :=
  ⟨0x0300000000000000, .emit, by decide, by decide, by decide, by decide⟩
theorem starts_idleOffered : StartsEmission idleOffered 0x0000 :=
  ⟨0x0400000000000000, .emitIdle, by decide, by decide, by decide, by decide⟩

theorem test_witness_SentFramesPassTheCheck : Inv emitOffered ∧ StartsEmission emitOffered 0x830B :=
  ⟨inv_emitOffered, starts_emitOffered⟩

/-! ### Timer and emitter -/

theorem test_witness_StartEmissionRule :
    (({ State.reset with oe := true } : State).period = 0 ∧ ({ State.reset with oe := true } : State).oe = true) ∧
    (State.reset.period = 0 ∧ State.reset.oe = false) ∧ (booted.period ≠ 0 ∧ booted.oe = true) ∧
    (idleOffered.period ≠ 0 ∧ idleOffered.oe = false) := by decide
theorem test_witness_SequencerRule :
    (lastTick.busy = true ∧ lastTick.hold = 0 ∧ lastTick.sym = 15) ∧
    (({ lastTick with sym := 14 } : State).busy = true ∧ ({ lastTick with sym := 14 } : State).hold = 0 ∧
      ({ lastTick with sym := 14 } : State).sym ≠ 15) ∧
    (booted.busy = false ∨ booted.hold ≠ 0) ∧ (emitting.busy = false ∨ emitting.hold ≠ 0) := by decide
theorem test_witness_CounterRule :
    State.reset.period = 0 ∧
    (({ booted with cnt := 239 } : State).period ≠ 0 ∧
      ({ booted with cnt := 239 } : State).period.toNat - 1 ≤ ({ booted with cnt := 239 } : State).cnt.toNat) ∧
    (pulsing.period ≠ 0 ∧ pulsing.cnt.toNat < pulsing.period.toNat - 1) ∧
    (emitting.busy = true ∧ emitting.period ≠ 0 ∧ emitting.sequencerPhase.busy = true) := by decide
theorem test_witness_PinRule :
    (∃ t, booted.rst = false ∧ step booted = .next t) ∧ booted.sequencerPhase.ccrAct = 0 ∧
    idleOffered.sequencerPhase.oe = false ∧
    (let v := ({ pulsing with ccrAct := 240, cnt := 239 } : State).sequencerPhase
     v.oe = true ∧ v.period ≤ v.ccrAct ∧ v.cnt < v.period) :=
  ⟨⟨_, by decide, step_eq_afterStep _⟩, by decide⟩
theorem test_witness_PhasesZeroAndOneDoNotOverlap :
    (emitting.rst = false ∧ emitting.busy = true) ∧
    (∃ u, emitOffered.rst = false ∧ emitOffered.busy = false ∧ commandPhase emitOffered = .next u ∧ u.busy = true) ∧
    lastTick.sequencerPhase ≠ lastTick :=
  ⟨by decide, ⟨_, by decide, by decide, commandPhase_eq _, by decide⟩, by decide⟩
theorem test_witness_CompareWriteLatency :
    (∃ t, (offering 0x110000000000003C booted).accepted = some 0x110000000000003C ∧
      decode 0x110000000000003C = .ok (.setCmp 60) ∧ step (offering 0x110000000000003C booted) = .next t) ∧
    (∃ t, (offering 0x1200000000000000 pulsing).accepted = some 0x1200000000000000 ∧
      decode 0x1200000000000000 = .ok .reload ∧ step (offering 0x1200000000000000 pulsing) = .next t) :=
  ⟨⟨_, by decide, by decide, step_eq_afterStep _⟩, ⟨_, by decide, by decide, step_eq_afterStep _⟩⟩
/-- At CNT = 238: SETPERIOD 239 wraps (CNT = p - 1), SETPERIOD 240 counts on (CNT = p - 2). -/
theorem test_witness_PeriodWriteOverRunningCounter :
    (∃ t, (offering 0x10000000000000EF pulsing).accepted = some 0x10000000000000EF ∧
      decode 0x10000000000000EF = .ok (.setPeriod 239) ∧ step (offering 0x10000000000000EF pulsing) = .next t ∧
      (239 : Timer).toNat - 1 ≤ pulsing.cnt.toNat) ∧
    (∃ t, (offering 0x10000000000000F0 pulsing).accepted = some 0x10000000000000F0 ∧
      decode 0x10000000000000F0 = .ok (.setPeriod 240) ∧ step (offering 0x10000000000000F0 pulsing) = .next t ∧
      pulsing.cnt.toNat < (240 : Timer).toNat - 1) :=
  ⟨⟨_, by decide, by decide, step_eq_afterStep _, by decide⟩, ⟨_, by decide, by decide, step_eq_afterStep _, by decide⟩⟩

/-! ### Emissions -/

theorem noReset_of_offer (n : Nat) (w : CmdWord) (s : State) : NoReset n (offering w s) :=
  noReset_of_reset_not_mem (by simp [offering]) n

/-- EMIT offered, then MAP, then a reset: MAP is held through the emission, and the reset with it. -/
def resetQueued : State := { emitOffered with host := [.offer 0x0300000000000000, .offer 0x01000000000005DC, .reset] }

theorem starts_resetQueued : StartsEmission resetQueued 0x830B :=
  ⟨0x0300000000000000, .emit, by decide, by decide, by decide, by decide⟩

theorem test_witness_EmissionWaveform :
    (StartsEmission emitOffered 0x830B ∧ emitOffered.oe = true ∧ NoReset (16 * emitOffered.period.toNat + 1) emitOffered) ∧
    (StartsEmission resetQueued 0x830B ∧ resetQueued.oe = true ∧ NoReset (16 * resetQueued.period.toNat + 1) resetQueued) ∧
    ((0 : Nat) < 16 ∧ 0 < emitOffered.period.toNat) ∧ ((15 : Nat) < 16 ∧ 239 < emitOffered.period.toNat) :=
  ⟨⟨starts_emitOffered, by decide, noReset_of_offer _ _ _⟩,
    ⟨starts_resetQueued, by decide, noReset_of_held starts_resetQueued rfl⟩, by decide, by decide⟩
theorem test_witness_EmissionDuration :
    (StartsEmission emitOffered 0x830B ∧ NoReset (16 * emitOffered.period.toNat + 1) emitOffered) ∧
    (StartsEmission resetQueued 0x830B ∧ NoReset (16 * resetQueued.period.toNat + 1) resetQueued) ∧
    (0 < 16 * emitOffered.period.toNat ∧ 3839 < 16 * emitOffered.period.toNat) ∧ emitOffered.period = 240 :=
  ⟨⟨starts_emitOffered, noReset_of_offer _ _ _⟩, ⟨starts_resetQueued, noReset_of_held starts_resetQueued rfl⟩, by decide,
    by decide⟩
theorem test_witness_EmissionWithoutOutput :
    StartsEmission idleOffered 0x0000 ∧ idleOffered.oe = false ∧ NoReset (16 * idleOffered.period.toNat + 1) idleOffered ∧
    (0 ≤ 16 * idleOffered.period.toNat ∧ 3840 ≤ 16 * idleOffered.period.toNat) :=
  ⟨starts_idleOffered, by decide, noReset_of_offer _ _ _, by decide⟩

/-- A compare value that waits for the wrap, OE = 1: program P6 at the end of cycle 237. -/
def waiting : State := { booted with ccrPre := 60, cnt := 238 }

/-- Between two frames: the line is quiet, SETCMD is offered, and the next CYCLE waits behind it. -/
def betweenFrames : State := { booted with host := [.offer 0x05000000000005DC, .offer 0x0600000000000000] }

theorem acceptsQuietly_of_accepted {s : State} {w : CmdWord} {i : Instr} (ha : s.accepted = some w) (hd : decode w = .ok i)
    (hk : keepsQuiet i = true) : AcceptsQuietly s := by
  intro w' i' ha' hd'
  rw [ha] at ha'
  cases ha'
  rw [hd] at hd'
  cases hd'
  exact hk

theorem acceptsQuietly_betweenFrames : AcceptsQuietly betweenFrames :=
  acceptsQuietly_of_accepted (w := 0x05000000000005DC) (i := .setCmd 1500) (by decide) (by decide) (by decide)

theorem test_witness_LineQuietAfterEmission :
    (∃ t, lastTick.busy = true ∧ lastTick.rst = false ∧ step lastTick = .next t ∧ t.busy = false) ∧
    (∃ t, Quiet (offering 0x1100000000000000 booted) ∧ AcceptsQuietly (offering 0x1100000000000000 booted) ∧
      step (offering 0x1100000000000000 booted) = .next t) ∧
    (∃ t, Quiet { booted with host := [.reset] } ∧ AcceptsQuietly { booted with host := [.reset] } ∧
      step { booted with host := [.reset] } = .next t) ∧
    (Quiet betweenFrames ∧ (∀ k u, k < 1 → Host.Core.run core k betweenFrames = .next u → AcceptsQuietly u) ∧ 0 < 1) ∧
    (∀ s ∈ [offering 0x110000000000003C booted, waiting, { waiting with cnt := 239 }, { waiting with host := [.reset] }],
      (s.busy = false ∧ s.ccrAct = 0) ∧
      (∀ w i, s.accepted = some w → decode w = .ok i → i ≠ .reload ∧ isEmitting i = false) ∧ ∃ t, step s = .next t) := by
  refine ⟨⟨_, by decide, by decide, step_eq_afterStep _, by decide⟩, ⟨_, by decide, ?_, step_eq_afterStep _⟩,
    ⟨_, by decide, ?_, step_eq_afterStep _⟩, ⟨by decide, ?_, by decide⟩, ?_⟩
  · exact acceptsQuietly_of_accepted (w := 0x1100000000000000) (i := .setCmp 0) (by decide) (by decide) (by decide)
  · intro w i ha
    cases ha
  · intro k u hk hu
    obtain rfl : k = 0 := by omega
    cases hu
    exact acceptsQuietly_betweenFrames
  · intro s hs
    refine ⟨by revert s; decide, ?_, _, step_eq_afterStep _⟩
    have h : s.accepted = none ∨ s.accepted = some 0x110000000000003C := by revert s; decide
    intro w i ha hd
    rcases h with h | h <;> rw [h] at ha <;> cases ha
    rw [show decode 0x110000000000003C = .ok (.setCmp 60) by decide] at hd
    cases hd
    decide
theorem test_witness_EmissionCannotBeCancelled :
    (∃ t, lastTick.busy = true ∧ step lastTick = .next t ∧ t.busy = false) ∧
    (∃ t, ({ emitting with host := [.reset] } : State).busy = true ∧ step { emitting with host := [.reset] } = .next t ∧
      State.rst { emitting with host := [.reset] } = true) ∧
    (∃ t, emitting.busy = true ∧ step emitting = .next t ∧ emitting.rst = false ∧ emitting.hold ≠ 0) ∧
    (∃ t, ({ lastTick with sym := 14 } : State).busy = true ∧ step { lastTick with sym := 14 } = .next t ∧
      State.rst { lastTick with sym := 14 } = false ∧ ({ lastTick with sym := 14 } : State).hold = 0 ∧
      ({ lastTick with sym := 14 } : State).sym ≠ 15) :=
  ⟨⟨_, by decide, step_eq_afterStep _, by decide⟩, ⟨_, by decide, step_eq_afterStep _, by decide⟩,
    ⟨_, by decide, step_eq_afterStep _, by decide⟩, ⟨_, by decide, step_eq_afterStep _, by decide⟩⟩

/-! ### Scheduler, flags, whole machine -/

theorem test_witness_ArmTestIsAtOrBelowMinimum :
    config.WellFormed ∧ widest.WellFormed ∧ (∃ t, exec .cycle State.reset = .next t) ∧
    (∃ t, exec .cycle { booted with cmdHeld := 1001 } = .next t) :=
  ⟨by decide, by decide, ⟨_, exec_eq_effect _ _⟩, ⟨_, exec_eq_effect _ _⟩⟩
/-- Two states with one CMD_HELD and different modes, on both sides of the minimum. -/
theorem test_witness_SchedulerIsLevelTriggered :
    ∀ c ∈ ([1000, 1001] : List Imm), ∃ t₁ t₂,
      ({ booted with cmdHeld := c } : State).cmdHeld = ({ booted with cmdHeld := c, mode := .active } : State).cmdHeld ∧
      exec .cycle { booted with cmdHeld := c } = .next t₁ ∧
      exec .cycle { booted with cmdHeld := c, mode := .active } = .next t₂ ∧ booted.period ≠ 0 :=
  fun _ _ => ⟨_, _, rfl, exec_eq_effect _ _, exec_eq_effect _ _, by decide⟩
theorem test_witness_ErrorFlagsAreStickyAndUnread :
    (∃ t, step { State.reset with errPeriod := true } = .next t ∧ State.rst { State.reset with errPeriod := true } = false ∧
      State.errFlag { State.reset with errPeriod := true } .period = true) ∧
    (∃ t, step { emitting with host := [.reset] } = .next t ∧ State.rst { emitting with host := [.reset] } = true) ∧
    (∃ t t', step emitOffered = .next t ∧
      step { emitOffered with errIllegal := true, errNoOe := false, errPeriod := true } = .next t') :=
  ⟨⟨_, step_eq_afterStep _, by decide⟩, ⟨_, step_eq_afterStep _, by decide⟩,
    ⟨_, _, step_eq_afterStep _, step_eq_afterStep _⟩⟩
theorem test_witness_PeriodNotSetRefusesEmission :
    (∀ i ∈ [Instr.emit, .emitIdle, .cycle], isEmitting i = true ∧ State.reset.period = 0 ∧
      ∃ t, exec i State.reset = .next t) ∧
    1000 < ({ State.reset with cmdHeld := 1001 } : State).cmdHeld.toInt ∧ State.reset.cmdHeld.toInt ≤ 1000 ∧
    (∃ t, step (offering 0x1000000000000000 booted) = .next t ∧ (offering 0x1000000000000000 booted).rst = false ∧
      (offering 0x1000000000000000 booted).period ≠ 0) :=
  ⟨fun i hi => ⟨by revert i; decide, by decide, ⟨_, exec_eq_effect _ _⟩⟩, by decide, by decide,
    ⟨_, step_eq_afterStep _, by decide⟩⟩
theorem test_witness_OutputEnableIsSetOnlyByEnOut :
    (∃ t, step booted = .next t ∧ booted.rst = false ∧ booted.oe = true) ∧
    (∃ t, step (offering 0x1300000000000000 State.reset) = .next t ∧
      (offering 0x1300000000000000 State.reset).oe = false ∧ t.oe = true) ∧
    (∃ t, step { emitting with host := [.reset] } = .next t ∧ State.rst { emitting with host := [.reset] } = true) ∧
    (∃ t, step idleOffered = .next t ∧ t.oe = false) :=
  ⟨⟨_, step_eq_afterStep _, by decide⟩, ⟨_, step_eq_afterStep _, by decide⟩, ⟨_, step_eq_afterStep _, by decide⟩,
    ⟨_, step_eq_afterStep _, by decide⟩⟩

/-- A cycle that accepts `w` from `s`, without reset, after which `p` says which register changed. -/
def Changes (w : CmdWord) (s : State) (p : State → State → Prop) : Prop :=
  ∃ t, step (offering w s) = .next t ∧ (offering w s).rst = false ∧ p s t

/-- One state for each clause: the register changes in that cycle. -/
theorem test_witness_RegistersHaveTheirWriters :
    Changes 0x05000000000005DC booted (fun s t => t.cmdHeld ≠ s.cmdHeld) ∧
    Changes 0x01000000000005DC booted (fun s t => t.native ≠ s.native) ∧
    Changes 0x0200000000000418 booted (fun s t => t.frame ≠ s.frame) ∧
    Changes 0x0600000000000000 { booted with cmdHeld := 1500 } (fun s t => t.mode ≠ s.mode ∧ t.native ≠ s.native ∧
      t.frame ≠ s.frame) ∧
    Changes 0x10000000000000F0 State.reset (fun s t => t.period ≠ s.period) ∧
    Changes 0x0300000000000000 { booted with frame := 0x830B } (fun s t => t.tx ≠ s.tx ∧ s.busy = false ∧ t.busy = true ∧
      t.ccrPre ≠ s.ccrPre) ∧
    Changes 0x01000000000005DC emitting (fun s t => t.hold ≠ s.hold ∧ t.cnt ≠ s.cnt) ∧
    Changes 0x01000000000005DC { lastTick with sym := 14 } (fun s t => t.sym ≠ s.sym) ∧
    Changes 0x01000000000005DC lastTick (fun s t => s.busy = true ∧ t.busy = false ∧ t.ccrAct ≠ s.ccrAct) ∧
    Changes 0x0600000000000000 booted (fun s t => t.hold ≠ s.hold ∧ t.cnt ≠ s.cnt ∧ t.ccrAct ≠ s.ccrAct) ∧
    Changes 0x1200000000000000 { pulsing with ccrPre := 7 } (fun s t => t.cnt ≠ s.cnt ∧ t.ccrAct ≠ s.ccrAct) ∧
    Changes 0x1100000000000007 { pulsing with cnt := 239 } (fun s t => t.cnt ≠ s.cnt ∧ t.ccrAct ≠ s.ccrAct) ∧
    Changes 0x1300000000000000 State.reset (fun s t => t.oe ≠ s.oe) ∧
    Changes 0x110000000000003C booted (fun s t => t.ccrPre ≠ s.ccrPre) ∧
    Changes 0x0700000000000000 booted (fun s t => t.errIllegal ≠ s.errIllegal) ∧
    Changes 0x0400000000000000 State.reset (fun s t => t.errNoOe ≠ s.errNoOe ∨ t.errPeriod ≠ s.errPeriod) := by
  refine ⟨?_, ?_, ?_, ?_, ?_, ?_, ?_, ?_, ?_, ?_, ?_, ?_, ?_, ?_, ?_, ?_⟩ <;>
    exact ⟨_, step_eq_afterStep _, by decide, by decide⟩

theorem test_witness_StepKeepsInvariant :
    (∃ t, Inv emitting ∧ step emitting = .next t) ∧ (∃ t, Inv emitOffered ∧ step emitOffered = .next t) :=
  ⟨⟨_, inv_emitting, step_eq_afterStep _⟩, ⟨_, inv_emitOffered, step_eq_afterStep _⟩⟩
theorem test_witness_OneCycleCommands :
    (∃ t, (offering 0x0700000000000000 booted).accepted = some 0x0700000000000000 ∧
      step (offering 0x0700000000000000 booted) = .next t ∧ ∃ e, decode 0x0700000000000000 = .error e) ∧
    (∃ t, (offering 0x01000000000005DC booted).accepted = some 0x01000000000005DC ∧
      step (offering 0x01000000000005DC booted) = .next t ∧
      ∃ i, decode 0x01000000000005DC = .ok i ∧ (isEmitting i = false ∨ booted.period = 0)) ∧
    (∃ t, (offering 0x0300000000000000 State.reset).accepted = some 0x0300000000000000 ∧
      step (offering 0x0300000000000000 State.reset) = .next t ∧
      ∃ i, decode 0x0300000000000000 = .ok i ∧ (isEmitting i = false ∨ State.reset.period = 0)) :=
  ⟨⟨_, by decide, step_eq_afterStep _, .reservedOpcode, by decide⟩,
    ⟨_, by decide, step_eq_afterStep _, .map 1500, by decide, by decide⟩,
    ⟨_, by decide, step_eq_afterStep _, .emit, by decide, by decide⟩⟩
theorem test_witness_AssemblerEmitsLegalWords :
    assemble ["SETPERIOD 240".toList, "RELOAD".toList] = .ok [0x10000000000000F0, 0x1200000000000000] ∧
    (0x1200000000000000 : CmdWord) ∈ [(0x10000000000000F0 : CmdWord), 0x1200000000000000] := by decide

end Sys2Proof.Tests
end

/-! # Frames, phases and the script: facts the statements of spec/10_state.md share -/

namespace Sys2Proof.Machine

open Sys2Proof.Safety

/-! ## The receiver's check (spec/30_encoding.md R63, spec/41_frame_encoder.md R98) -/

/-- Every frame of the encoder passes the receiver's check. -/
theorem frameValid_encf (cfg : Config) (v : Int) (t : Bool) : FrameValid (encf cfg v t) := by
  have hn := packFrame_nibble (BitVec.ofInt 11 (clampNat cfg v)) t
  unfold FrameValid encf
  rw [frameCsum_packFrame, hn 8, hn 4, hn 0]
  rfl

theorem frameValid_idleFrame : FrameValid idleFrame := by decide

/-! ## Phase 0 on a busy block, and on a block that is not (spec/10_state.md R38, R40) -/

theorem accepted_of_busy {s : State} (h : s.busy = true) : s.accepted = none := by
  simp [State.accepted, State.cmdReady, h]

theorem phaseZero_of_busy {s : State} (h : s.busy = true) : phaseZero s = s.takeInput :=
  phaseZero_of_not_accepted (accepted_of_busy h)

theorem afterStep_of_rst {s : State} (h : s.rst = true) : afterStep s = s.resetCycle := by
  simp [afterStep, h]

/-- StartEmission makes an idle block busy only by loading a symbol: HOLD = PERIOD, and the period is programmed
(spec/42_pulse_emitter.md R110). -/
theorem startEmission_loaded {f : FrameWord} {s : State} (hb : s.busy = false) (h : (s.startEmission f).busy = true) :
    (s.startEmission f).hold = (s.startEmission f).period ∧ (s.startEmission f).period ≠ 0 := by
  by_cases hp : s.period = 0
  · rw [startEmission_of_period_eq_zero hp] at h
    exact absurd h (Bool.eq_false_iff.mp hb)
  · rw [startEmission_of_period_ne_zero hp]
    exact ⟨rfl, hp⟩

/-- A command makes an idle block busy only by loading a symbol. -/
theorem effect_loaded {i : Instr} {s : State} (hb : s.busy = false) (h : (effect i s).busy = true) :
    (effect i s).hold = (effect i s).period ∧ (effect i s).period ≠ 0 := by
  cases hi : isEmitting i with
  | false =>
    rw [(effect_of_not_emitting hi s).1, hb] at h
    cases h
  | true =>
    cases i with
    | emit | emitIdle => exact startEmission_loaded hb h
    | cycle =>
      cases hA : armTest config (sext32 s.cmdHeld)
      · rw [effect_cycle_active hA] at h ⊢
        exact startEmission_loaded (by exact hb) h
      · rw [effect_cycle_arming hA] at h ⊢
        exact startEmission_loaded (by exact hb) h
    | _ => cases hi

/-- Phase 0 makes an idle block busy only by loading a symbol. -/
theorem phaseZero_loaded {s : State} (hb : s.busy = false) (h : (phaseZero s).busy = true) :
    (phaseZero s).hold = (phaseZero s).period ∧ (phaseZero s).period ≠ 0 := by
  rcases phaseZero_cases s with ⟨_, e⟩ | ⟨w, i, _, _, e⟩ | ⟨w, _, _, _, e⟩ <;> rw [e] at h ⊢
  · exact absurd h (Bool.eq_false_iff.mp hb)
  · exact effect_loaded (by exact hb) h
  · exact absurd h (Bool.eq_false_iff.mp hb)

/-- After phase 0 of an idle block, phase 1 has nothing to do (spec/10_state.md R38). -/
theorem sequencerPhase_phaseZero {s : State} (hb : s.busy = false) : (phaseZero s).sequencerPhase = phaseZero s := by
  cases hu : (phaseZero s).busy with
  | false => exact sequencerPhase_of_not_busy hu
  | true =>
    obtain ⟨hh, hp⟩ := phaseZero_loaded hb hu
    exact sequencerPhase_of_hold_ne_zero (hh ▸ hp)

/-! ## Phases 1 to 3 do not read the script (spec/10_state.md R40) -/

/-- Phase 1 carries the host's script through. -/
theorem sequencerPhase_withHost (h : List HostInput) (s : State) :
    State.sequencerPhase { s with host := h } = { s.sequencerPhase with host := h } := by
  unfold State.sequencerPhase
  simp only
  split
  · split <;> rfl
  · rfl

/-- The counter carries the host's script through. -/
theorem tickCounter_withHost (h : List HostInput) (s : State) :
    State.tickCounter { s with host := h } = { s.tickCounter with host := h } := by
  unfold State.tickCounter
  simp only
  split
  · rfl
  · split <;> rfl

/-- The hold count carries the host's script through. -/
theorem tickHold_withHost (h : List HostInput) (s : State) :
    State.tickHold { s with host := h } = { s.tickHold with host := h } := by
  unfold State.tickHold
  simp only
  split <;> rfl

/-- Phases 1 to 3 carry the host's script through. -/
theorem finishCycle_withHost (h : List HostInput) (s : State) :
    State.finishCycle { s with host := h } = { s.finishCycle with host := h } := by
  unfold State.finishCycle State.counterPhase
  rw [sequencerPhase_withHost, ← tickHold_withHost, ← tickCounter_withHost]
  rfl

/-- A busy block's step, without its script, is phases 1 to 3 on the registers, whatever the script is. -/
theorem afterStep_of_busy_host_nil {s : State} (hb : s.busy = true) (hr : s.rst = false) :
    { afterStep s with host := [] } = State.finishCycle { s with host := [] } := by
  rw [afterStep_of_not_rst hr, phaseZero_of_busy hb]
  exact (finishCycle_withHost [] s.takeInput).symm

/-! ## A legal word decodes (spec/30_encoding.md R67) -/

/-- A timer operand that fits its register is the zero extension of its low half (spec/30_encoding.md R65). -/
theorem immOf_eq_immLowOf {w : CmdWord} (h : (immOf w).toNat ≤ 2 ^ config.tmrW - 1) :
    immOf w = (immLowOf w).setWidth 32 :=
  (immLowOf_setWidth ((immHighOf_eq_zero_iff w).mpr (by rw [config_tmrW] at h; omega))).symm

theorem exists_decode_of_legalWord {w : CmdWord} (h : LegalWord w) : ∃ i, decode w = .ok i := by
  obtain ⟨hopc, hrsv, htel, himm, hper, hcmp⟩ := h
  have htel (k : BitVec 8) (hk : opcOf w = k) (h2 : k ≠ 0x02) : telemOf w = false :=
    htel.resolve_right (hk ▸ h2)
  have hopc : opcOf w ∈ [0x01, 0x02, 0x03, 0x04, 0x05, 0x06, 0x10, 0x11, 0x12, (0x13 : BitVec 8)] := by
    simpa [← BitVec.toNat_inj] using hopc
  simp only [List.mem_cons, List.not_mem_nil, or_false] at hopc
  rcases hopc with ho | ho | ho | ho | ho | ho | ho | ho | ho | ho
  · exact ⟨.map (immOf w), decode_of_fields hrsv ho (htel _ ho (by decide)) rfl rfl⟩
  · exact ⟨.encode (immOf w) (telemOf w), decode_of_fields hrsv ho rfl rfl rfl⟩
  · exact ⟨.emit, decode_of_fields hrsv ho (htel _ ho (by decide)) (himm (by rw [ho]; decide)) rfl⟩
  · exact ⟨.emitIdle, decode_of_fields hrsv ho (htel _ ho (by decide)) (himm (by rw [ho]; decide)) rfl⟩
  · exact ⟨.setCmd (immOf w), decode_of_fields hrsv ho (htel _ ho (by decide)) rfl rfl⟩
  · exact ⟨.cycle, decode_of_fields hrsv ho (htel _ ho (by decide)) (himm (by rw [ho]; decide)) rfl⟩
  · obtain ⟨h1, h2⟩ := hper ho
    have hlow := immOf_eq_immLowOf h2
    have hne : immLowOf w ≠ 0 := by
      intro h0
      rw [hlow, h0] at h1
      exact absurd h1 (by decide)
    exact ⟨.setPeriod (immLowOf w), decode_of_fields hrsv ho (htel _ ho (by decide)) hlow (bne_iff_ne.mpr hne)⟩
  · exact ⟨.setCmp (immLowOf w),
      decode_of_fields hrsv ho (htel _ ho (by decide)) (immOf_eq_immLowOf (hcmp ho)) rfl⟩
  · exact ⟨.reload, decode_of_fields hrsv ho (htel _ ho (by decide)) (himm (by rw [ho]; decide)) rfl⟩
  · exact ⟨.enOut, decode_of_fields hrsv ho (htel _ ho (by decide)) (himm (by rw [ho]; decide)) rfl⟩

/-- An illegal word breaks R67. -/
theorem not_legalWord_of_decode {w : CmdWord} {e : DecodeError} (h : decode w = .error e) : ¬ LegalWord w := by
  intro hl
  obtain ⟨i, hi⟩ := exists_decode_of_legalWord hl
  rw [h] at hi
  cases hi

end Sys2Proof.Machine

/-! # O47: the invariant of the block -/

namespace Sys2Proof.Machine

open Sys2Proof.Safety

/-- What holds between the phases of a cycle that starts with the invariant (spec/10_state.md R23, R24, R27, R28): the invariant
with the counter's range left open, which a SETPERIOD may break until phase 3, and with HOLD = PERIOD allowed, which a loaded
symbol has until phase 3. -/
structure MidInv (s : State) : Prop where
  native : NativeInRange s
  frames : FramesValid s
  stopped : s.period = 0 → s.cnt = 0
  emitting : s.busy = true →
    s.period ≠ 0 ∧ (s.cnt.toNat + s.hold.toNat = s.period.toNat ∨ s.cnt = 0 ∧ s.hold = 0) ∧
    s.ccrPre = s.ccrAct ∧ s.ccrAct = symbolWidth s.tx s.sym
  idle : s.busy = false → s.sym = 0 ∧ s.hold = 0

theorem midInv_takeInput {s : State} (h : Inv s) : MidInv s.takeInput where
  native := h.native
  frames := h.frames
  stopped := h.counter.1
  emitting hb := by
    obtain ⟨hp, _, hc, ha⟩ := h.sequencer.1 hb
    exact ⟨hp, hc, ha⟩
  idle := h.sequencer.2

theorem nativeInRange_mapf (c : Int) {s : State} (h : s.native = BitVec.ofInt 11 (mapf config c)) : NativeInRange s := by
  have hn := ofInt11_mapf_toNat c
  have hr := mapf_config_range c
  rw [NativeInRange, config_natMin, config_natMax, h, hn]
  exact hr

/-- StartEmission of a valid frame keeps it: without a period nothing but flags changes, with one the first symbol is loaded. -/
theorem midInv_startEmission {f : FrameWord} {s : State} (h : MidInv s) (hf : FrameValid f) : MidInv (s.startEmission f) := by
  by_cases hp : s.period = 0
  · rw [startEmission_of_period_eq_zero hp]
    exact ⟨h.native, h.frames, h.stopped, h.emitting, h.idle⟩
  · rw [startEmission_of_period_ne_zero hp]
    exact {
      native := h.native
      frames := ⟨h.frames.1, hf⟩
      stopped := fun _ => rfl
      emitting := fun _ => ⟨hp, .inl (Nat.zero_add _), rfl, rfl⟩
      idle := fun hb => nomatch hb }

/-- Every well-formed command keeps it, on a block that is not busy. -/
theorem midInv_effect {i : Instr} {s : State} (h : MidInv s) (hb : s.busy = false) (hi : i.WellFormed) :
    MidInv (effect i s) := by
  have hnb : ¬ s.busy = true := Bool.eq_false_iff.mp hb
  cases i with
  | map c => exact ⟨nativeInRange_mapf _ rfl, h.frames, h.stopped, h.emitting, h.idle⟩
  | encode v t => exact ⟨h.native, ⟨frameValid_encf _ _ _, h.frames.2⟩, h.stopped, h.emitting, h.idle⟩
  | emit => exact midInv_startEmission h h.frames.1
  | emitIdle => exact midInv_startEmission h frameValid_idleFrame
  | setCmd c => exact ⟨h.native, h.frames, h.stopped, h.emitting, h.idle⟩
  | cycle =>
    cases hA : armTest config (sext32 s.cmdHeld)
    · rw [effect_cycle_active hA]
      have hv := frameValid_encf config (BitVec.ofInt 11 (mapf config (sext32 s.cmdHeld))).toNat false
      exact midInv_startEmission
        ⟨nativeInRange_mapf _ rfl, ⟨hv, h.frames.2⟩, h.stopped, h.emitting, h.idle⟩ hv
    · rw [effect_cycle_arming hA]
      exact midInv_startEmission ⟨h.native, h.frames, h.stopped, h.emitting, h.idle⟩ frameValid_idleFrame
  | setPeriod p =>
    exact ⟨h.native, h.frames, fun hp => absurd hp (bne_iff_ne.mp hi), fun ht => absurd ht hnb, h.idle⟩
  | setCmp v => exact ⟨h.native, h.frames, h.stopped, fun ht => absurd ht hnb, h.idle⟩
  | reload => exact ⟨h.native, h.frames, fun _ => rfl, fun ht => absurd ht hnb, h.idle⟩
  | enOut => exact ⟨h.native, h.frames, h.stopped, h.emitting, h.idle⟩

theorem midInv_phaseZero {s : State} (h : Inv s) : MidInv (phaseZero s) := by
  have h := midInv_takeInput h
  rcases phaseZero_cases s with ⟨_, e⟩ | ⟨w, i, ha, hd, e⟩ | ⟨w, _, _, _, e⟩ <;> rw [e]
  · exact h
  · exact midInv_effect h (accepted_eq_some_iff.mp ha).2.1 (wellFormed_of_decode hd)
  · exact ⟨h.native, h.frames, h.stopped, h.emitting, h.idle⟩

/-- Phase 1 keeps it, and leaves HOLD > 0 while BUSY = 1: a symbol that was over is replaced by the next, or the emission ends
(spec/42_pulse_emitter.md R112). -/
theorem midInv_sequencerPhase {s : State} (h : MidInv s) :
    MidInv s.sequencerPhase ∧ (s.sequencerPhase.busy = true → s.sequencerPhase.hold ≠ 0) := by
  rcases sequencerPhase_cases s with ⟨hq, e⟩ | ⟨⟨_, hh, _⟩, e⟩ | ⟨⟨hb, _, _⟩, e⟩ <;> rw [e]
  · exact ⟨h, fun hb => hq.resolve_left (by simp [hb])⟩
  · exact ⟨⟨h.native, h.frames, fun _ => rfl, fun hb => (nomatch hb), fun _ => ⟨rfl, hh⟩⟩, fun hb => (nomatch hb)⟩
  · have hp := (h.emitting hb).1
    refine ⟨⟨h.native, h.frames, fun _ => rfl, fun _ => ⟨hp, .inl (Nat.zero_add _), rfl, rfl⟩, fun hi => ?_⟩, fun _ => hp⟩
    exact absurd hb (Bool.eq_false_iff.mp hi)

/-- Phase 3 brings the counter into its range (spec/42_pulse_emitter.md R103). -/
theorem counterInRange_tickCounter {s : State} (h : s.period = 0 → s.cnt = 0) : CounterInRange s.tickCounter := by
  rcases tickCounter_cases s with ⟨hp, e⟩ | ⟨⟨hp, _⟩, e⟩ | ⟨⟨hp, hc⟩, e⟩ <;> rw [e]
  · exact ⟨h, fun hn => absurd hp hn⟩
  · exact ⟨fun _ => rfl, fun hn => by bv_omega⟩
  · exact ⟨fun h0 => absurd h0 hp, fun hn => by bv_omega⟩

/-- During an emission phase 3 counts CNT up and HOLD down together, and both reach 0 together at the end of the symbol
(spec/42_pulse_emitter.md R103, R115). -/
theorem tickCounter_of_emitting {s : State} (hh : s.hold ≠ 0) (hc : s.cnt.toNat + s.hold.toNat = s.period.toNat) :
    s.tickCounter.cnt.toNat + (s.hold - 1).toNat = s.period.toNat ∨ s.tickCounter.cnt = 0 ∧ s.hold - 1 = 0 := by
  rcases tickCounter_cases s with ⟨hp, e⟩ | ⟨⟨hp, hw⟩, e⟩ | ⟨⟨hp, hw⟩, e⟩ <;> rw [e]
  · exact absurd hp (by bv_omega)
  · exact .inr ⟨rfl, by bv_omega⟩
  · exact .inl (by bv_omega)

/-- Phases 2 and 3 restore the invariant. -/
theorem inv_counterPhase {s : State} (h : MidInv s) (hhold : s.busy = true → s.hold ≠ 0) :
    Inv s.outputPhase.counterPhase where
  native := by simpa [NativeInRange] using h.native
  frames := by simpa [FramesValid] using h.frames
  counter := by simpa [CounterInRange] using counterInRange_tickCounter (s := s.outputPhase) h.stopped
  sequencer := by
    refine ⟨fun hb => ?_, fun hb => ?_⟩
    · simp only [counterPhase_busy, outputPhase_busy] at hb
      obtain ⟨hp, hc, hpre, hact⟩ := h.emitting hb
      have hh := hhold hb
      have hc := hc.resolve_right fun h0 => hh h0.2
      have hAct : s.outputPhase.tickCounter.ccrAct = s.ccrAct := by
        rcases tickCounter_cases s.outputPhase with ⟨_, e⟩ | ⟨_, e⟩ | ⟨_, e⟩ <;> rw [e]
        · rfl
        · exact hpre
        · rfl
      simp only [counterPhase_period, counterPhase_hold, counterPhase_cnt, counterPhase_ccrPre, counterPhase_ccrAct,
        counterPhase_tx, counterPhase_sym, outputPhase_period, outputPhase_hold, outputPhase_busy, outputPhase_ccrPre,
        outputPhase_tx, outputPhase_sym, hb, if_true, hAct]
      exact ⟨hp, by bv_omega, tickCounter_of_emitting (s := s.outputPhase) hh hc, hpre, hact⟩
    · simp only [counterPhase_busy, outputPhase_busy] at hb
      simpa [hb] using h.idle hb

/-- Settles O48, part by part on the reset values. -/
theorem resetMeetsInvariant : Obligations.ResetMeetsInvariant :=
  ⟨by decide, by decide, by decide, by decide⟩

/-- A reset cycle leaves the registers at their reset values, whatever waits in the script. -/
theorem inv_resetCycle (s : State) : Inv s.resetCycle :=
  have h := resetMeetsInvariant
  ⟨h.native, h.frames, h.counter, h.sequencer⟩

/-- Settles O47: phases 0 and 1 keep the invariant's weaker form, phases 2 and 3 restore it, and a reset cycle meets it. -/
theorem stepKeepsInvariant : Obligations.StepKeepsInvariant := by
  intro s t h hs
  rw [← step_eq_next_iff.mp hs]
  cases hr : s.rst with
  | true =>
    rw [afterStep_of_rst hr]
    exact inv_resetCycle s
  | false =>
    rw [afterStep_of_not_rst hr]
    obtain ⟨hm, hhold⟩ := midInv_sequencerPhase (midInv_phaseZero h)
    exact inv_counterPhase hm hhold

end Sys2Proof.Machine

/-! # O8, O31, O43, O44, O6, O46: the handshake, the registers' writers, the output enable and STATUS -/

namespace Sys2Proof.Machine

open Sys2Proof.Safety

/-! ## O6, O8 and O31: the cycle and the handshake (spec/10_state.md R37, R38, R40) -/

/-- Settles O6: the step is phase 0's state, then phases 1 to 3. -/
theorem stepRunsDecodedCommand : Obligations.StepRunsDecodedCommand := by
  refine ⟨fun s w i ha hd => ?_, fun s hr ha => ?_⟩
  · have hr := (accepted_eq_some_iff.mp ha).1
    rw [step_eq_afterStep, afterStep_of_not_rst hr, phaseZero_of_accepted ha, performed_of_decode hd, exec_eq_effect]
  · rw [step_eq_afterStep, afterStep_of_not_rst hr, phaseZero_of_not_accepted ha]

/-- Settles O8: a busy block accepts nothing, so its step is phases 1 to 3, and these do not read the script. -/
theorem handshakeHoldsCommandsWhileBusy : Obligations.HandshakeHoldsCommandsWhileBusy := by
  refine ⟨fun s w => ?_, fun s hr => ?_, fun s hr hb => ?_, fun s t w rest hb hh hs => ?_, fun s t t' h hb hr hr' hs hs' => ?_⟩
  · rw [accepted_eq_some_iff, State.cmdReady, Bool.and_eq_true, Bool.not_eq_true', Bool.not_eq_true']
    tauto
  · rw [State.cmdReady, hr]
    rfl
  · rw [step_eq_afterStep, afterStep_of_not_rst hr, phaseZero_of_busy hb]
  · rw [← step_eq_next_iff.mp hs, afterStep_host, hostNext_of_busy_offer hb hh]
  · rw [← step_eq_next_iff.mp hs, ← step_eq_next_iff.mp hs', afterStep_of_busy_host_nil hb hr]
    exact afterStep_of_busy_host_nil (s := { s with host := h }) hb hr'

/-- Settles O31: phase 0 needs an idle block, and the symbol it loads leaves HOLD > 0, so phase 1 has nothing to do. -/
theorem phasesZeroAndOneDoNotOverlap : Obligations.PhasesZeroAndOneDoNotOverlap := by
  intro s _
  refine ⟨fun hb => ⟨accepted_of_busy hb, ?_⟩, fun hb u hu => ?_, fun hb u hu hub => ?_, fun hne => ?_⟩
  · rw [commandPhase_eq, phaseZero_of_busy hb]
  · rw [commandPhase_eq] at hu
    cases hu
    exact sequencerPhase_phaseZero hb
  · rw [commandPhase_eq] at hu
    cases hu
    obtain ⟨hh, hp⟩ := phaseZero_loaded hb hub
    exact ⟨hh, by bv_omega⟩
  · rcases sequencerPhase_cases s with ⟨_, e⟩ | ⟨⟨hb, hh, _⟩, _⟩ | ⟨⟨hb, hh, _⟩, _⟩
    · exact absurd e hne
    · exact ⟨hb, hh⟩
    · exact ⟨hb, hh⟩

/-! ## The writers of the registers that no phase but phase 0 writes (spec/10_state.md R20) -/

/-- A register `r` that neither taking the input, nor an illegal word, nor the phases 1 to 3 write was changed by the step's
decoded command. -/
theorem writer_of_step_ne {α : Type} (r : State → α) (hin : ∀ u : State, r u.takeInput = r u)
    (herr : ∀ u : State, r (u.setErr .illegal) = r u) (hfin : ∀ u : State, r u.finishCycle = r u) {s : State}
    (hr : s.rst = false) (h : r (afterStep s) ≠ r s) :
    ∃ w i, s.accepted = some w ∧ decode w = .ok i ∧ afterStep s = (effect i s.takeInput).finishCycle ∧
      r (effect i s.takeInput) ≠ r s.takeInput := by
  rw [afterStep_of_not_rst hr] at h ⊢
  rw [hfin] at h
  rcases phaseZero_cases s with ⟨_, e⟩ | ⟨w, i, ha, hd, e⟩ | ⟨w, _, _, _, e⟩ <;> rw [e] at h
  · exact absurd (hin s) h
  · exact ⟨w, i, ha, hd, by rw [e], by rwa [hin]⟩
  · exact absurd ((herr _).trans (hin s)) h

section
variable {i : Instr} {s : State}

/-- CYCLE leaves CMD_HELD, PERIOD and OE as they were, in either mode (spec/43_scheduler.md R132). -/
theorem effect_cycle_keeps :
    (effect .cycle s).cmdHeld = s.cmdHeld ∧ (effect .cycle s).period = s.period ∧ (effect .cycle s).oe = s.oe := by
  cases hA : armTest config (sext32 s.cmdHeld)
  · simp [effect_cycle_active hA]
  · simp [effect_cycle_arming hA]

/-- CYCLE writes NATIVE and FRAME in ACTIVE alone (spec/43_scheduler.md R132). -/
theorem effect_cycle_mode_or_unchanged :
    (effect .cycle s).mode = .active ∨ (effect .cycle s).native = s.native ∧ (effect .cycle s).frame = s.frame := by
  cases hA : armTest config (sext32 s.cmdHeld)
  · simp [effect_cycle_active hA]
  · simp [effect_cycle_arming hA]

theorem setCmd_of_effect_cmdHeld_ne (h : (effect i s).cmdHeld ≠ s.cmdHeld) : ∃ c, i = .setCmd c := by
  cases i with
  | setCmd c => exact ⟨c, rfl⟩
  | cycle => exact absurd effect_cycle_keeps.1 h
  | _ => exact absurd (by simp [effect]) h

theorem setPeriod_of_effect_period_ne (h : (effect i s).period ≠ s.period) : ∃ p, i = .setPeriod p := by
  cases i with
  | setPeriod p => exact ⟨p, rfl⟩
  | cycle => exact absurd effect_cycle_keeps.2.1 h
  | _ => exact absurd (by simp [effect]) h

theorem enOut_of_effect_oe_ne (h : (effect i s).oe ≠ s.oe) : i = .enOut := by
  cases i with
  | enOut => rfl
  | cycle => exact absurd effect_cycle_keeps.2.2 h
  | _ => exact absurd (by simp [effect]) h

theorem cycle_of_effect_mode_ne (h : (effect i s).mode ≠ s.mode) : i = .cycle := by
  cases i with
  | cycle => rfl
  | _ => exact absurd (by simp [effect]) h

theorem writer_of_effect_native_ne (h : (effect i s).native ≠ s.native) :
    (∃ c, i = .map c) ∨ i = .cycle ∧ (effect i s).mode = .active := by
  cases i with
  | map c => exact .inl ⟨c, rfl⟩
  | cycle => exact .inr ⟨rfl, effect_cycle_mode_or_unchanged.resolve_right fun hn => h hn.1⟩
  | _ => exact absurd (by simp [effect]) h

theorem writer_of_effect_frame_ne (h : (effect i s).frame ≠ s.frame) :
    (∃ v b, i = .encode v b) ∨ i = .cycle ∧ (effect i s).mode = .active := by
  cases i with
  | encode v b => exact .inl ⟨v, b, rfl⟩
  | cycle => exact .inr ⟨rfl, effect_cycle_mode_or_unchanged.resolve_right fun hn => h hn.2⟩
  | _ => exact absurd (by simp [effect]) h

/-- The flags of an emission are set by an emitting command alone (spec/60_exceptions.md R143, R144). -/
theorem isEmitting_of_effect_flag_ne (h : (effect i s).errNoOe ≠ s.errNoOe ∨ (effect i s).errPeriod ≠ s.errPeriod) :
    isEmitting i = true := by
  rcases effect_kinds i s with ⟨hi, _⟩ | ⟨hi, _⟩ | ⟨_, hno, hper, _⟩
  · exact hi
  · exact hi
  · exact absurd hper (h.resolve_left fun hn => hn hno)

end

/-! ## O43: the output enable (spec/10_state.md R32) -/

/-- With OE = 0 the pin is low (spec/42_pulse_emitter.md R105). -/
theorem pin_of_not_oe {s : State} (h : s.oe = false) : s.pin = false := by
  simp [State.pin, h]

/-- A step without reset leaves OE, or it accepts ENOUT, which sets it. -/
theorem oe_cases {s : State} (hr : s.rst = false) :
    (afterStep s).oe = s.oe ∨ (∃ w, s.accepted = some w ∧ decode w = .ok .enOut) ∧ (afterStep s).oe = true := by
  by_cases h : (afterStep s).oe = s.oe
  · exact .inl h
  · obtain ⟨w, i, ha, hd, e, hne⟩ := writer_of_step_ne State.oe (fun _ => rfl) (fun _ => rfl) finishCycle_oe hr h
    cases enOut_of_effect_oe_ne hne
    exact .inr ⟨⟨w, ha, hd⟩, by rw [e, finishCycle_oe]; rfl⟩

/-- A cycle that ends with OE = 0 had the pin low: no phase after phase 0 writes OE. -/
theorem pinLow_of_not_oe {s : State} (hr : s.rst = false) (h : (afterStep s).oe = false) : (afterStep s).dshotOut = false := by
  rw [afterStep_of_not_rst hr, finishCycle_oe] at h
  rw [afterStep_of_not_rst hr, finishCycle_dshotOut]
  exact pin_of_not_oe ((sequencerPhase_oe _).trans h)

/-- Settles O43: a step leaves OE or is ENOUT's, or it is a reset cycle. -/
theorem outputEnableIsSetOnlyByEnOut : Obligations.OutputEnableIsSetOnlyByEnOut := by
  intro s t hs
  rw [← step_eq_next_iff.mp hs]
  cases hr : s.rst with
  | true =>
    rw [afterStep_of_rst hr]
    exact ⟨fun h => (nomatch h), fun _ h => (nomatch h), fun _ => rfl, fun _ => rfl⟩
  | false =>
    refine ⟨fun _ ho => ?_, fun ho ht => ?_, fun h => (nomatch h), pinLow_of_not_oe hr⟩
    · rcases oe_cases hr with h | ⟨_, h⟩
      · exact h.trans ho
      · exact h
    · rcases oe_cases hr with h | ⟨h, _⟩
      · exact absurd (h.symm.trans ht) (Bool.eq_false_iff.mp ho)
      · exact h

/-! ## O44: the emitter's and the timer's registers (spec/10_state.md R20, R27, R28) -/

/-- Phase 0 starts an emission, or it leaves the emitter as it was, CCR_PRE to SETCMP, and CNT and CCR_ACT to RELOAD. -/
theorem startsEmission_or_unchanged (s : State) :
    (∃ f, StartsEmission s f) ∨
    ((phaseZero s).tx = s.tx ∧ (phaseZero s).busy = s.busy ∧ (phaseZero s).sym = s.sym ∧ (phaseZero s).hold = s.hold) ∧
      ((∃ w v, s.accepted = some w ∧ decode w = .ok (.setCmp v)) ∨ (phaseZero s).ccrPre = s.ccrPre) ∧
      ((∃ w, s.accepted = some w ∧ decode w = .ok .reload) ∨
        (phaseZero s).cnt = s.cnt ∧ (phaseZero s).ccrAct = s.ccrAct) := by
  rcases phaseZero_cases s with ⟨_, e⟩ | ⟨w, i, ha, hd, e⟩ | ⟨w, _, _, _, e⟩
  · rw [e]
    exact .inr ⟨⟨rfl, rfl, rfl, rfl⟩, .inr rfl, .inr ⟨rfl, rfl⟩⟩
  · rw [e]
    rcases effect_kinds i s.takeInput with ⟨_, _, ⟨htx, hb, hsym, hh⟩, hpre, hcnt, hact⟩ | ⟨_, hp, f, hf⟩ |
      ⟨hi, _, _, hpre, hcnt⟩
    · exact .inr ⟨⟨htx, hb, hsym, hh⟩, .inr hpre, .inr ⟨hcnt, hact⟩⟩
    · exact .inl ⟨f, w, i, ha, hd, hf, hp⟩
    · obtain ⟨hb, hsym, hh, htx⟩ := effect_of_not_emitting hi s.takeInput
      refine .inr ⟨⟨htx, hb, hsym, hh⟩, hpre.imp_left ?_, hcnt.imp_left ?_⟩
      · rintro ⟨v, rfl⟩
        exact ⟨w, v, ha, hd⟩
      · rintro rfl
        exact ⟨w, ha, hd⟩
  · rw [e]
    exact .inr ⟨⟨rfl, rfl, rfl, rfl⟩, .inr rfl, .inr ⟨rfl, rfl⟩⟩

/-- A step of an idle block without reset ends in phase 3 on what phase 0 left: phase 1 does nothing. -/
theorem afterStep_of_idle {s : State} (hr : s.rst = false) (hb : s.busy = false) :
    afterStep s = (phaseZero s).outputPhase.counterPhase := by
  rw [afterStep_of_not_rst hr, State.finishCycle, sequencerPhase_phaseZero hb]

/-- TX is written by the start of an emission alone (spec/10_state.md R27). -/
theorem startsEmission_of_tx_ne {s : State} (hr : s.rst = false) (h : (afterStep s).tx ≠ s.tx) :
    ∃ f, StartsEmission s f ∧ (afterStep s).tx = f := by
  rcases startsEmission_or_unchanged s with ⟨f, hf⟩ | ⟨⟨htx, _⟩, _⟩
  · have htx := (atTick_zero hf).1.tx
    exact ⟨f, hf, by rw [afterStep_eq_midCycle hr]; simpa using htx⟩
  · exact absurd (by rw [afterStep_of_not_rst hr, finishCycle_tx, htx]) h

/-- Only the end of symbol 15 clears BUSY (spec/42_pulse_emitter.md R112). -/
theorem last_of_busy_falls {s : State} (hr : s.rst = false) (hb : s.busy = true) (h : (afterStep s).busy = false) :
    s.sym = 15 ∧ s.hold = 0 := by
  rw [afterStep_of_not_rst hr, phaseZero_of_busy hb, finishCycle_busy] at h
  rcases sequencerPhase_cases s.takeInput with ⟨_, e⟩ | ⟨⟨_, hh, hs⟩, _⟩ | ⟨_, e⟩
  · rw [e] at h
    exact absurd hb (Bool.eq_false_iff.mp h)
  · exact ⟨hs, hh⟩
  · rw [e] at h
    exact absurd hb (Bool.eq_false_iff.mp h)

/-- What phase 3 does to CNT and CCR_ACT: nothing without a period, else it wraps with an update event or counts on
(spec/42_pulse_emitter.md R103). -/
theorem counterPhase_moves (s : State) :
    (s.counterPhase.cnt = s.cnt ∧ s.counterPhase.ccrAct = s.ccrAct) ∨
    s.period ≠ 0 ∧
      (s.counterPhase.cnt = 0 ∧ s.counterPhase.ccrAct = s.ccrPre ∨
        s.counterPhase.cnt = s.cnt + 1 ∧ s.counterPhase.ccrAct = s.ccrAct) := by
  rw [counterPhase_cnt, counterPhase_ccrAct]
  rcases tickCounter_cases s with ⟨_, e⟩ | ⟨⟨hp, _⟩, e⟩ | ⟨⟨hp, _⟩, e⟩ <;> rw [e]
  · exact .inl ⟨rfl, rfl⟩
  · exact .inr ⟨hp, .inl ⟨rfl, rfl⟩⟩
  · exact .inr ⟨hp, .inr ⟨rfl, rfl⟩⟩

/-- A step without reset from a block that neither emits nor starts to: BUSY, SYM and HOLD stay, CCR_PRE is SETCMP's, and CNT and
CCR_ACT are RELOAD's and phase 3's. -/
theorem step_of_no_emission {s : State} (hr : s.rst = false) (hb : s.busy = false) (hn : ¬ ∃ f, StartsEmission s f) :
    ((afterStep s).busy = false ∧ (afterStep s).sym = s.sym ∧ (afterStep s).hold = s.hold) ∧
    ((∃ w v, s.accepted = some w ∧ decode w = .ok (.setCmp v)) ∨ (afterStep s).ccrPre = s.ccrPre) ∧
    ((∃ w, s.accepted = some w ∧ decode w = .ok .reload) ∨
      ((afterStep s).cnt = s.cnt ∧ (afterStep s).ccrAct = s.ccrAct) ∨
      (afterStep s).period ≠ 0 ∧
        ((afterStep s).cnt = 0 ∧ (afterStep s).ccrAct = (afterStep s).ccrPre ∨
          (afterStep s).cnt = s.cnt + 1 ∧ (afterStep s).ccrAct = s.ccrAct)) := by
  obtain ⟨⟨_, hb', hsym, hh⟩, hpre, hcnt⟩ := (startsEmission_or_unchanged s).resolve_left hn
  rw [afterStep_of_idle hr hb]
  refine ⟨by simp [hb', hb, hsym, hh], hpre.imp_right fun h => by simpa using h, hcnt.imp_right fun ⟨hc, ha⟩ => ?_⟩
  rw [← hc, ← ha, counterPhase_period, counterPhase_ccrPre]
  exact counterPhase_moves _

/-- A block emits, or it starts to, or neither. -/
theorem emission_cases (s : State) :
    s.busy = true ∨ (∃ f, StartsEmission s f) ∨ s.busy = false ∧ ¬ ∃ f, StartsEmission s f := by
  by_cases hf : ∃ f, StartsEmission s f
  · exact .inr (.inl hf)
  · cases hb : s.busy
    · exact .inr (.inr ⟨rfl, hf⟩)
    · exact .inl rfl

/-- ERR_ILLEGAL changes only with an accepted word that breaks R67 (spec/60_exceptions.md R142). -/
theorem illegal_of_errIllegal_ne {s : State} (hr : s.rst = false) (h : (afterStep s).errIllegal ≠ s.errIllegal) :
    ∃ w, s.accepted = some w ∧ ¬ LegalWord w := by
  rw [afterStep_of_not_rst hr, finishCycle_errIllegal] at h
  rcases phaseZero_cases s with ⟨_, e⟩ | ⟨w, i, _, _, e⟩ | ⟨w, _, ha, hd, _⟩
  · exact absurd (by rw [e]; rfl) h
  · exact absurd (by rw [e]; exact (effect_ports i _).2.2) h
  · exact ⟨w, ha, not_legalWord_of_decode hd⟩

/-- Settles O44: each register by the lemma about its writers. -/
theorem registersHaveTheirWriters : Obligations.RegistersHaveTheirWriters := by
  intro s t hs hr
  obtain rfl := step_eq_next_iff.mp hs
  refine ⟨?cmdHeld, ?native, ?frame, ?mode, ?period, startsEmission_of_tx_ne hr, ?symHold, ?busyRises, last_of_busy_falls hr,
    ?cnt, ?ccrAct, ?oe, ?ccrPre, illegal_of_errIllegal_ne hr, ?flags⟩
  case cmdHeld =>
    intro h
    obtain ⟨w, i, ha, hd, _, hne⟩ := writer_of_step_ne State.cmdHeld (fun _ => rfl) (fun _ => rfl) finishCycle_cmdHeld hr h
    obtain ⟨c, rfl⟩ := setCmd_of_effect_cmdHeld_ne hne
    exact ⟨w, c, ha, hd⟩
  case native =>
    intro h
    obtain ⟨w, i, ha, hd, e, hne⟩ := writer_of_step_ne State.native (fun _ => rfl) (fun _ => rfl) finishCycle_native hr h
    rw [e, finishCycle_mode]
    exact ⟨w, i, ha, hd, writer_of_effect_native_ne hne⟩
  case frame =>
    intro h
    obtain ⟨w, i, ha, hd, e, hne⟩ := writer_of_step_ne State.frame (fun _ => rfl) (fun _ => rfl) finishCycle_frame hr h
    rw [e, finishCycle_mode]
    exact ⟨w, i, ha, hd, writer_of_effect_frame_ne hne⟩
  case mode =>
    intro h
    obtain ⟨w, i, ha, hd, _, hne⟩ := writer_of_step_ne State.mode (fun _ => rfl) (fun _ => rfl) finishCycle_mode hr h
    exact ⟨w, ha, cycle_of_effect_mode_ne hne ▸ hd⟩
  case period =>
    intro h
    obtain ⟨w, i, ha, hd, _, hne⟩ := writer_of_step_ne State.period (fun _ => rfl) (fun _ => rfl) finishCycle_period hr h
    obtain ⟨p, rfl⟩ := setPeriod_of_effect_period_ne hne
    exact ⟨w, p, ha, hd⟩
  case oe =>
    intro h
    exact ((oe_cases hr).resolve_left h).1
  case flags =>
    rintro (h | h)
    · obtain ⟨w, i, ha, hd, _, hne⟩ := writer_of_step_ne State.errNoOe (fun _ => rfl) (fun _ => rfl) finishCycle_errNoOe hr h
      exact ⟨w, i, ha, hd, isEmitting_of_effect_flag_ne (.inl hne)⟩
    · obtain ⟨w, i, ha, hd, _, hne⟩ :=
        writer_of_step_ne State.errPeriod (fun _ => rfl) (fun _ => rfl) finishCycle_errPeriod hr h
      exact ⟨w, i, ha, hd, isEmitting_of_effect_flag_ne (.inr hne)⟩
  case busyRises =>
    intro hb h
    by_contra hn
    exact absurd h (Bool.eq_false_iff.mp (step_of_no_emission hr hb hn).1.1)
  case symHold =>
    intro h
    rcases emission_cases s with hb | hf | ⟨hb, hn⟩
    · exact .inl hb
    · exact .inr hf
    · obtain ⟨⟨_, hsym, hhold⟩, _⟩ := step_of_no_emission hr hb hn
      exact absurd hhold (h.resolve_left fun hne => hne hsym)
  case ccrPre =>
    intro h
    rcases emission_cases s with hb | hf | ⟨hb, hn⟩
    · exact .inl hb
    · exact .inr (.inl hf)
    · obtain ⟨_, hpre, _⟩ := step_of_no_emission hr hb hn
      exact .inr (.inr (hpre.resolve_right h))
  case cnt =>
    intro h
    rcases emission_cases s with hb | hf | ⟨hb, hn⟩
    · exact .inr (.inl hb)
    · exact .inr (.inr (.inl hf))
    · obtain ⟨_, _, hreload | ⟨hc, _⟩ | ⟨hp, hmove⟩⟩ := step_of_no_emission hr hb hn
      · exact .inr (.inr (.inr hreload))
      · exact absurd hc h
      · exact .inl ⟨hp, hmove.imp And.left And.left⟩
  case ccrAct =>
    intro h
    rcases emission_cases s with hb | hf | ⟨hb, hn⟩
    · exact .inr (.inl hb)
    · exact .inr (.inr (.inl hf))
    · obtain ⟨_, _, hreload | ⟨_, ha⟩ | ⟨hp, ⟨hc, ha⟩ | ⟨_, ha⟩⟩⟩ := step_of_no_emission hr hb hn
      · exact .inr (.inr (.inr hreload))
      · exact absurd ha h
      · exact .inl ⟨hp, hc, ha⟩
      · exact absurd ha h

/-! ## O46: the status word (spec/10_state.md R34) -/

/-- Settles O46, bit by bit of the appended word. -/
theorem statusWordLayout : Obligations.StatusWordLayout := by
  refine ⟨fun s => ?_, by decide⟩
  have hmode : s.mode.bit = (s.mode == .active) := by cases s.mode <;> rfl
  rw [← hmode, State.statusOut, State.status]
  simp only [BitVec.getLsbD_append, BitVec.getLsbD_ofBool]
  simp

end Sys2Proof.Machine

/-! # The command word's encoding: decode and encode agree, the legal words, the opcode table (spec/30_encoding.md) -/

namespace Sys2Proof

/-! ## O2, O3: decode and encode are inverse (R64 to R67) -/

/-- Settles O2: the four fields of the command's word are the command's own, and such fields decode to the command. -/
theorem decodeOfEncode : Obligations.DecodeOfEncode := fun _ hw =>
  decode_of_fields (rsvOf_cmdWord _ _ _) (opcOf_cmdWord _ _ _) (telemOf_cmdWord _ _ _) (immOf_cmdWord _ _ _) hw

/-- Settles O3: a word that decodes has the command's fields and RSV = 0, and a word is made of its fields. -/
theorem encodeOfDecode : Obligations.EncodeOfDecode := by
  intro w i h
  obtain ⟨hrsv, hd⟩ := rsvOf_of_decode h
  obtain ⟨hopc, htelem, himm, hw⟩ := fields_of_decodeOpcode hd
  refine ⟨hw, ?_⟩
  calc encode i = cmdWord (opcOf w) (telemOf w) (immOf w) := by rw [hopc, htelem, himm]; rfl
    _ = w := cmdWord_fields w hrsv

theorem encode_of_decode {w : CmdWord} {i : Instr} (h : decode w = .ok i) : encode i = w :=
  (encodeOfDecode w i h).2

/-! ## O4: the decoder answers exactly the legal words (R67) -/

/-- The word of a well-formed command is legal. -/
theorem legalWord_encode {i : Instr} (hw : i.WellFormed) : LegalWord (encode i) := by
  unfold LegalWord encode
  rw [opcOf_cmdWord, rsvOf_cmdWord, telemOf_cmdWord, immOf_cmdWord, config_tmrW]
  refine ⟨?opcode, rfl, ?telem, ?noOperand, ?period, ?compare⟩
  case opcode => cases i <;> simp [Instr.opc]
  case telem =>
    cases i with
    | encode v t => exact .inr rfl
    | _ => exact .inl rfl
  case noOperand => cases i <;> simp [Instr.opc, Instr.imm]
  case period =>
    intro ho
    cases i with
    | setPeriod p =>
      have hp : p.toNat ≠ 0 := fun h0 => bne_iff_ne.mp hw (BitVec.eq_of_toNat_eq h0)
      have := p.isLt
      simp only [Instr.imm, BitVec.toNat_setWidth]
      omega
    | _ => exact absurd ho (by simp [Instr.opc])
  case compare =>
    intro ho
    cases i with
    | setCmp p =>
      have := p.isLt
      simp only [Instr.imm, BitVec.toNat_setWidth]
      omega
    | _ => exact absurd ho (by simp [Instr.opc])

/-- Settles O4: a word that decodes is the word of a well-formed command, hence legal; a legal word decodes. -/
theorem decodesExactlyTheLegalWords : Obligations.DecodesExactlyTheLegalWords := by
  intro w
  constructor
  · rintro ⟨i, h⟩
    obtain ⟨hw, rfl⟩ := encodeOfDecode w i h
    exact legalWord_encode hw
  · exact Machine.exists_decode_of_legalWord

/-! ## O5: the rows of the opcode table (R66, R69) -/

/-- Every command's word is in its row, and the row is in the table. -/
theorem tableRow (i : Instr) : Laws.TableRow.Statement i := by
  cases i with
  | map c => exact Laws.TableRow.map c
  | encode v t => exact Laws.TableRow.encode v t
  | emit => exact Laws.TableRow.emit
  | emitIdle => exact Laws.TableRow.emitIdle
  | setCmd c => exact Laws.TableRow.setCmd c
  | cycle => exact Laws.TableRow.cycle
  | setPeriod p => exact Laws.TableRow.setPeriod p
  | setCmp p => exact Laws.TableRow.setCmp p
  | reload => exact Laws.TableRow.reload
  | enOut => exact Laws.TableRow.enOut

theorem row_of_decode {w : CmdWord} {i : Instr} (h : decode w = .ok i) : i.row ∈ opcodeTable ∧ i.row.Matches w := by
  obtain ⟨hmatch, hmem, _⟩ := tableRow i
  exact ⟨hmem, encode_of_decode h ▸ hmatch⟩

/-- A run of bits that the row's mask keeps whole is the pattern's in every word of the row. -/
theorem extractLsb'_of_matches {r : OpcodeRow} {w : CmdWord} (h : r.Matches w) {start len : Nat}
    (hm : r.mask.extractLsb' start len = BitVec.allOnes len) : w.extractLsb' start len = r.pattern.extractLsb' start len := by
  rw [← show w &&& r.mask = r.pattern from h, BitVec.extractLsb'_and, hm, BitVec.and_allOnes]

/-- T of a word of a row whose mask keeps bit 32. -/
theorem telemOf_of_matches {r : OpcodeRow} {w : CmdWord} (h : r.Matches w) (hm : telemOf r.mask = true) :
    telemOf w = telemOf r.pattern := by
  rw [← show w &&& r.mask = r.pattern from h]
  unfold telemOf at hm ⊢
  rw [BitVec.getLsbD_and, hm, Bool.and_true]

/-- Every row's mask keeps OPC and RSV whole, and no pattern sets RSV. -/
theorem opcodeTable_masks : ∀ r ∈ opcodeTable,
    opcOf r.mask = BitVec.allOnes 8 ∧ rsvOf r.mask = BitVec.allOnes 23 ∧ rsvOf r.pattern = 0 := by decide

theorem opcOf_of_matches {r : OpcodeRow} {w : CmdWord} (hr : r ∈ opcodeTable) (h : r.Matches w) :
    opcOf w = opcOf r.pattern :=
  extractLsb'_of_matches h (opcodeTable_masks r hr).1

theorem rsvOf_of_matches {r : OpcodeRow} {w : CmdWord} (hr : r ∈ opcodeTable) (h : r.Matches w) : rsvOf w = 0 := by
  obtain ⟨_, hmask, hpattern⟩ := opcodeTable_masks r hr
  exact (extractLsb'_of_matches h hmask).trans hpattern

/-- The opcode names the row: no two rows have the same. -/
theorem opcodeTable_opc_injective :
    ∀ r ∈ opcodeTable, ∀ r' ∈ opcodeTable, opcOf r.pattern = opcOf r'.pattern → r = r' := by decide

/-- The low operand bits of a decoded SETPERIOD are not 0 (R67 (e)). -/
theorem immLowOf_ne_zero_of_decode {w : CmdWord} {i : Instr} (h : decode w = .ok i) (hm : i.row.mnemonic = "SETPERIOD") :
    immLowOf w ≠ 0 := by
  obtain ⟨_, hd⟩ := rsvOf_of_decode h
  obtain ⟨_, _, himm, hw⟩ := fields_of_decodeOpcode hd
  cases i with
  | setPeriod p =>
    rw [(immLowOf_of_setWidth himm).2]
    exact bne_iff_ne.mp hw
  | _ => exact absurd hm (by simp [Instr.row])

/-- R67 read off the table: T and IMM are kept whole by the mask and 0 in the pattern wherever R67 (c) and (d) want a 0, a
timer operand's upper half too ((e), (f)), and OPC 0x10 is the row of SETPERIOD. -/
theorem opcodeTable_operands : ∀ r ∈ opcodeTable,
    (opcOf r.pattern).toNat ∈ [0x01, 0x02, 0x03, 0x04, 0x05, 0x06, 0x10, 0x11, 0x12, 0x13] ∧
    (telemOf r.mask = true ∧ telemOf r.pattern = false ∨ opcOf r.pattern = 0x02) ∧
    ((opcOf r.pattern).toNat ∈ [0x03, 0x04, 0x06, 0x12, 0x13] → immOf r.mask = BitVec.allOnes 32 ∧ immOf r.pattern = 0) ∧
    (opcOf r.pattern = 0x10 ∨ opcOf r.pattern = 0x11 → immHighOf r.mask = BitVec.allOnes 16 ∧ immHighOf r.pattern = 0) ∧
    (opcOf r.pattern = 0x10 → r.mnemonic = "SETPERIOD") := by decide

/-- A word of a row is legal, for SETPERIOD under its operand condition. -/
theorem legalWord_of_matches {r : OpcodeRow} {w : CmdWord} (hr : r ∈ opcodeTable) (h : r.Matches w)
    (hp : r.mnemonic = "SETPERIOD" → immLowOf w ≠ 0) : LegalWord w := by
  obtain ⟨hlist, htelem, himm, hhigh, hname⟩ := opcodeTable_operands r hr
  have hfits (ho : opcOf r.pattern = 0x10 ∨ opcOf r.pattern = 0x11) : (immOf w).toNat < 2 ^ 16 := by
    obtain ⟨hm, hz⟩ := hhigh ho
    exact (immHighOf_eq_zero_iff w).mp ((extractLsb'_of_matches h hm).trans hz)
  unfold LegalWord
  rw [opcOf_of_matches hr h, config_tmrW]
  refine ⟨hlist, rsvOf_of_matches hr h, ?telem, ?noOperand, ?period, ?compare⟩
  case telem => exact htelem.imp_left fun ⟨hm, hz⟩ => (telemOf_of_matches h hm).trans hz
  case noOperand =>
    intro ho
    obtain ⟨hm, hz⟩ := himm ho
    exact (extractLsb'_of_matches h hm).trans hz
  case period =>
    intro ho
    have hlt := hfits (.inl ho)
    have hne : (immLowOf w).toNat ≠ 0 := fun h0 => hp (hname ho) (BitVec.eq_of_toNat_eq h0)
    rw [immLowOf_toNat] at hne
    omega
  case compare =>
    intro ho
    have hlt := hfits (.inr ho)
    omega

/-- Settles O5: the opcode names the row, and the row's bits with SETPERIOD's operand condition decide the word. -/
theorem opcodeTableDecidesEveryWord : Obligations.OpcodeTableDecidesEveryWord := by
  refine ⟨fun w i => row_of_decode, ?_, fun w => ⟨?_, ?_⟩, fun w => ?_⟩
  · intro r hr r' hr' w h h'
    exact opcodeTable_opc_injective r hr r' hr' ((opcOf_of_matches hr h).symm.trans (opcOf_of_matches hr' h'))
  · rintro ⟨i, h⟩
    obtain ⟨hmem, hmatch⟩ := row_of_decode h
    exact ⟨i.row, hmem, hmatch, immLowOf_ne_zero_of_decode h⟩
  · rintro ⟨r, hr, h, hp⟩
    exact (decodesExactlyTheLegalWords w).mpr (legalWord_of_matches hr h hp)
  · cases decode w with
    | error e => exact .inr ⟨e, rfl⟩
    | ok i => exact .inl ⟨i, rfl, fun j hj => (Except.ok.inj hj).symm⟩

/-! ## O1: the sample words (R71) -/

/-- Settles O1, by running the decoder on the twelve words. -/
theorem sampleWordsDecode : Obligations.SampleWordsDecode := by
  unfold Obligations.SampleWordsDecode
  decide

end Sys2Proof

/-! # The assembler (spec/30_encoding.md R71, R72) -/

namespace Sys2Proof.Machine

/-! ## O51: an accepted line gives well-formed commands -/

/-- Whatever commands the answer holds are well-formed. -/
def AnswersWellFormed (r : Except AsmError (List Instr)) : Prop :=
  ∀ is, r = .ok is → ∀ i ∈ is, i.WellFormed

theorem answersWellFormed_ok {is : List Instr} (h : ∀ i ∈ is, i.WellFormed) : AnswersWellFormed (.ok is) := by
  intro js hj
  cases hj
  exact h

theorem answersWellFormed_error (e : AsmError) : AnswersWellFormed (.error e) := nofun

theorem answersWellFormed_ite {c : Prop} [Decidable c] {r r' : Except AsmError (List Instr)} (h : AnswersWellFormed r)
    (h' : AnswersWellFormed r') : AnswersWellFormed (if c then r else r') := by
  by_cases hc : c
  · rwa [if_pos hc]
  · rwa [if_neg hc]

theorem answersWellFormed_map {α : Type} {r : Except AsmError α} {f : α → List Instr}
    (h : ∀ a, r = .ok a → ∀ i ∈ f a, i.WellFormed) : AnswersWellFormed (r.map f) := by
  cases r with
  | error e => exact answersWellFormed_error e
  | ok a => exact answersWellFormed_ok (h a rfl)

theorem answersWellFormed_bind {α : Type} {r : Except AsmError α} {f : α → Except AsmError (List Instr)}
    (h : ∀ a, AnswersWellFormed (f a)) : AnswersWellFormed (r.bind f) := by
  cases r with
  | error e => exact answersWellFormed_error e
  | ok a => exact h a

theorem answersWellFormed_noOperand {is : List Instr} (h : ∀ i ∈ is, i.WellFormed) :
    ∀ ops, AnswersWellFormed (noOperand is ops)
  | [] => answersWellFormed_ok h
  | _ :: _ => answersWellFormed_error _

theorem answersWellFormed_oneSigned {f : Imm → List Instr} (h : ∀ v, ∀ i ∈ f v, i.WellFormed) :
    ∀ ops, AnswersWellFormed (oneSigned f ops)
  | [_] => answersWellFormed_map fun v _ => h v
  | [] | _ :: _ :: _ => answersWellFormed_error _

theorem answersWellFormed_oneTimer {lo : Int} {f : Timer → Instr}
    (h : ∀ x p, timerOperand lo x = .ok p → (f p).WellFormed) : ∀ ops, AnswersWellFormed (oneTimer lo f ops)
  | [x] => answersWellFormed_map fun p hp => List.forall_mem_singleton.mpr (h x p hp)
  | [] | _ :: _ :: _ => answersWellFormed_error _

theorem answersWellFormed_encodeOperands : ∀ ops, AnswersWellFormed (encodeOperands ops)
  | [_, _] => answersWellFormed_bind fun _ => answersWellFormed_map fun _ _ => List.forall_mem_singleton.mpr rfl
  | [] | [_] | _ :: _ :: _ :: _ => answersWellFormed_error _

/-- An accepted SETPERIOD operand is not 0: it lies in 1 to 2^TMR_W - 1, so its register holds it whole. -/
theorem timerOperand_one_ne_zero {x : Int} {p : Timer} (h : timerOperand 1 x = .ok p) : p ≠ 0 := by
  unfold timerOperand at h
  split at h
  · rename_i hx
    rw [config_tmrW] at hx
    cases h
    intro h0
    have hn : (BitVec.ofInt 16 x).toNat = 0 := by rw [h0]; rfl
    rw [BitVec.toNat_ofInt] at hn
    omega
  · cases h

/-- A pseudo-instruction stands for well-formed commands (R72). -/
theorem wellFormed_of_mem_expand (q : Pseudo) : ∀ i ∈ q.expand, i.WellFormed := by
  cases q with
  | setup => decide
  | idle => decide
  | send v | sendT v | throttle c => simp [Pseudo.expand, Instr.WellFormed, Instr.wellFormed]

theorem answersWellFormed_instructionsOf (mnemonic : String) (ops : List Int) :
    AnswersWellFormed (instructionsOf mnemonic ops) := by
  have one {i : Instr} (h : i.WellFormed) : ∀ j ∈ [i], j.WellFormed := List.forall_mem_singleton.mpr h
  have period (x : Int) (p : Timer) (h : timerOperand 1 x = .ok p) : (Instr.setPeriod p).WellFormed :=
    bne_iff_ne.mpr (timerOperand_one_ne_zero h)
  unfold instructionsOf
  repeat' refine answersWellFormed_ite ?_ ?_
  · exact answersWellFormed_oneSigned (fun _ => one rfl) ops
  · exact answersWellFormed_encodeOperands ops
  · exact answersWellFormed_noOperand (one rfl) ops
  · exact answersWellFormed_noOperand (one rfl) ops
  · exact answersWellFormed_oneSigned (fun _ => one rfl) ops
  · exact answersWellFormed_noOperand (one rfl) ops
  · exact answersWellFormed_oneTimer period ops
  · exact answersWellFormed_oneTimer (fun _ _ _ => rfl) ops
  · exact answersWellFormed_noOperand (one rfl) ops
  · exact answersWellFormed_noOperand (one rfl) ops
  · exact answersWellFormed_noOperand (wellFormed_of_mem_expand _) ops
  · exact answersWellFormed_oneSigned (fun _ => wellFormed_of_mem_expand _) ops
  · exact answersWellFormed_oneSigned (fun _ => wellFormed_of_mem_expand _) ops
  · exact answersWellFormed_oneSigned (fun _ => wellFormed_of_mem_expand _) ops
  · exact answersWellFormed_noOperand (wellFormed_of_mem_expand _) ops
  · exact answersWellFormed_error _

theorem answersWellFormed_assembleLine (line : List Char) : AnswersWellFormed (assembleLine line) := by
  unfold assembleLine
  exact answersWellFormed_ite (answersWellFormed_ok nofun)
    (answersWellFormed_bind fun ops => answersWellFormed_instructionsOf _ ops)

/-- Every answer in the list of a successful `mapM` is the answer for a member. -/
theorem exists_mem_of_mapM_eq_ok {α β ε : Type} {f : α → Except ε β} {xs : List α} {ys : List β}
    (h : xs.mapM f = .ok ys) : ∀ y ∈ ys, ∃ x ∈ xs, f x = .ok y := by
  induction xs generalizing ys with
  | nil =>
    cases h
    exact nofun
  | cons x xs ih =>
    rw [List.mapM_cons] at h
    cases hx : f x with
    | error e => rw [hx] at h; cases h
    | ok z =>
      cases hxs : xs.mapM f with
      | error e => rw [hx, hxs] at h; cases h
      | ok zs =>
        rw [hx, hxs] at h
        cases h
        exact List.forall_mem_cons.mpr ⟨⟨x, List.mem_cons_self, hx⟩, fun y hy =>
          let ⟨x', hmem, hx'⟩ := ih hxs y hy
          ⟨x', List.mem_cons_of_mem x hmem, hx'⟩⟩

/-- Every word of an assembled text is the word of a well-formed command. -/
theorem exists_wellFormed_of_assemble {lines : List (List Char)} {ws : List CmdWord} (h : assemble lines = .ok ws) :
    ∀ w ∈ ws, ∃ i : Instr, i.WellFormed ∧ encode i = w := by
  unfold assemble at h
  cases hl : lines.mapM assembleLine with
  | error e => rw [hl] at h; cases h
  | ok iss =>
    rw [hl] at h
    cases h
    intro w hw
    obtain ⟨i, hi, rfl⟩ := List.mem_map.mp hw
    obtain ⟨is, his, hmem⟩ := List.mem_flatten.mp hi
    obtain ⟨line, _, hline⟩ := exists_mem_of_mapM_eq_ok hl is his
    exact ⟨i, answersWellFormed_assembleLine line is hline i hmem, rfl⟩

/-- Settles O51: each word is the word of a well-formed command, and such words are legal. -/
theorem assemblerEmitsLegalWords : Obligations.AssemblerEmitsLegalWords := by
  intro lines ws h w hw
  obtain ⟨i, hi, rfl⟩ := exists_wellFormed_of_assemble h w hw
  exact legalWord_encode hi

/-! ## O50: the pseudo-instructions (R72) -/

/-- Settles O50, expansion by expansion; P_CFG is 240. -/
theorem pseudoInstructionsExpand : Obligations.PseudoInstructionsExpand :=
  ⟨rfl, fun _ => rfl, fun _ => rfl, fun _ => rfl, rfl⟩

end Sys2Proof.Machine

/-! # The throttle mapper (spec/40_throttle_mapper.md) -/

namespace Sys2Proof.Machine

/-! ## MAPF and the clamp (R80, R81) -/

theorem clampCmd_mem {cfg : Config} (hw : cfg.WellFormed) (c : Int) :
    cfg.cmdMin ≤ clampCmd cfg c ∧ clampCmd cfg c ≤ cfg.cmdMax :=
  clamp_mem hw.1.1.le

/-- MAPF of a command at or below CMD_MIN: the quotient is D div (2 * D) = 0. -/
theorem mapf_of_le_cmdMin {cfg : Config} (hw : cfg.WellFormed) {c : Int} (h : c ≤ cfg.cmdMin) : mapf cfg c = cfg.natMin := by
  have hd : cfg.cmdMin < cfg.cmdMax := hw.1.1
  have hc : clampCmd cfg c = cfg.cmdMin := clamp_of_le h hd.le
  simp only [mapf, hc, sub_self, mul_zero, zero_mul, zero_add]
  rw [Int.ediv_eq_zero_of_lt (by omega) (by omega), add_zero]

/-- MAPF of a command at or above CMD_MAX: the quotient is (2 * D * R + D) div (2 * D) = R. -/
theorem mapf_of_cmdMax_le {cfg : Config} (hw : cfg.WellFormed) {c : Int} (h : cfg.cmdMax ≤ c) : mapf cfg c = cfg.natMax := by
  have hd : cfg.cmdMin < cfg.cmdMax := hw.1.1
  have hc : clampCmd cfg c = cfg.cmdMax := clamp_of_ge h hd.le
  simp only [mapf, hc]
  rw [Int.mul_add_ediv_left _ _ (by omega), Int.ediv_eq_zero_of_lt (by omega) (by omega)]
  omega

/-- The numerator grows with the clamped command, and the divisor is positive. -/
theorem mapf_mono {cfg : Config} (hw : cfg.WellFormed) {c₁ c₂ : Int} (h : c₁ ≤ c₂) : mapf cfg c₁ ≤ mapf cfg c₂ := by
  obtain ⟨⟨hd, _⟩, ⟨_, hr, _⟩, _⟩ := hw
  have hc : clampCmd cfg c₁ ≤ clampCmd cfg c₂ := clamp_mono h hd.le
  have hn : 2 * (clampCmd cfg c₁ - cfg.cmdMin) * (cfg.natMax - cfg.natMin) ≤
      2 * (clampCmd cfg c₂ - cfg.cmdMin) * (cfg.natMax - cfg.natMin) :=
    mul_le_mul_of_nonneg_right (by omega) (by omega)
  exact add_le_add le_rfl (Int.ediv_le_ediv (by omega) (add_le_add hn le_rfl))

/-- MAPF lies between its values at the two ends (R82 (a)). -/
theorem mapf_mem {cfg : Config} (hw : cfg.WellFormed) (c : Int) : cfg.natMin ≤ mapf cfg c ∧ mapf cfg c ≤ cfg.natMax := by
  obtain ⟨hlo, hhi⟩ := clampCmd_mem hw c
  have hc : mapf cfg (clampCmd cfg c) = mapf cfg c := mapf_congr (clamp_clamp hw.1.1.le)
  rw [← hc]
  exact ⟨(mapf_of_le_cmdMin hw le_rfl).symm.trans_le (mapf_mono hw hlo),
    (mapf_mono hw hhi).trans_eq (mapf_of_cmdMax_le hw le_rfl)⟩

/-- Two commands of the range one apart are rescaled at least 1999/1000 apart, so no two share a value (R82 (e)). -/
theorem mapf_config_injective {c₁ c₂ : Int} (h₁ : 1000 ≤ c₁ ∧ c₁ ≤ 2000) (h₂ : 1000 ≤ c₂ ∧ c₂ ≤ 2000)
    (h : mapf config c₁ = mapf config c₂) : c₁ = c₂ := by
  rw [mapf_config, mapf_config, clamp_of_mem h₁.1 h₁.2, clamp_of_mem h₂.1 h₂.2] at h
  omega

/-! ## O10: the command MAP (R83) -/

theorem exec_map (c : Imm) (s : State) :
    exec (.map c) s = .next { s with native := BitVec.ofInt 11 (mapf config c.toInt) } :=
  exec_eq_effect (.map c) s

/-- NATIVE after a MAP whose value is the number `v`. -/
theorem ofInt11_mapf_eq {c : Int} {v : Native} (h : mapf config c = v.toNat) : BitVec.ofInt 11 (mapf config c) = v :=
  BitVec.eq_of_toNat_eq (Int.ofNat.inj ((ofInt11_mapf_toNat c).trans h))

/-- Settles O10: MAP writes the 11 low bits of MAPF, which hold it whole, and the corner values are MAPF's ends and its tie. -/
theorem mapResult : Obligations.MapResult := by
  intro c s
  refine ⟨_, exec_map c s, ofInt11_mapf_toNat _, fun hlo => ?below, fun hhi => ?above, ?tie⟩
  case below => exact ofInt11_mapf_eq (mapf_of_le_cmdMin config_wellFormed hlo.le)
  case above => exact ofInt11_mapf_eq (mapf_of_cmdMax_le config_wellFormed hhi.le)
  case tie =>
    rintro rfl
    decide

/-! ## O21: range, ends, clamping, order (R82) -/

/-- Settles O21: the clamping clauses are the values at and beyond the ends, the range is the order applied to the clamped
command, and MAP writes NATIVE, which STATUS does not show. -/
theorem mapperRangeEndsAndOrder : Obligations.MapperRangeEndsAndOrder := by
  refine ⟨fun cfg hw => ⟨mapf_mem hw, ?ends, fun c hc => ?below, fun c hc => ?above, fun _ _ => mapf_mono hw⟩,
    ?endsAtInstance, fun _ _ h1 h2 h3 h4 => mapf_config_injective ⟨h1, h2⟩ ⟨h3, h4⟩, fun c s => ⟨_, exec_map c s, rfl⟩⟩
  case ends => exact ⟨mapf_of_le_cmdMin hw le_rfl, mapf_of_cmdMax_le hw le_rfl⟩
  case below => rw [mapf_of_le_cmdMin hw hc.le, mapf_of_le_cmdMin hw le_rfl]
  case above => rw [mapf_of_cmdMax_le hw hc.le, mapf_of_cmdMax_le hw le_rfl]
  case endsAtInstance =>
    exact ⟨mapf_of_le_cmdMin config_wellFormed le_rfl, mapf_of_cmdMax_le config_wellFormed le_rfl⟩

/-! ## O20: the integer form is the rational rescale rounded half up (R81) -/

/-- Rounding half up a quotient of integers, plus an integer, in integer division. -/
theorem floor_div_add_half (a n : Int) {d : Int} (hd : 0 < d) :
    ⌊(a / d : ℚ) + n + 1 / 2⌋ = n + (2 * a + d) / (2 * d) := by
  lift d to ℕ using hd.le
  have hd0 : (d : ℚ) ≠ 0 := by exact_mod_cast hd.ne'
  have hx : (a / (d : ℤ) : ℚ) + n + 1 / 2 = ((2 * a + d : ℤ) : ℚ) / ((2 * d : ℕ) : ℚ) + n := by
    push_cast
    field_simp
    ring
  rw [hx, Int.floor_add_intCast, Rat.floor_intCast_div_natCast, add_comm, Nat.cast_mul, Nat.cast_ofNat]

/-- R81's x = (c' - CMD_MIN) * R / D, the exact value that MAPF rounds. -/
def rescaled (cfg : Config) (c : Int) : ℚ :=
  (clampCmd cfg c - cfg.cmdMin : ℚ) * (cfg.natMax - cfg.natMin : ℤ) / (cfg.cmdMax - cfg.cmdMin : ℤ)

theorem rescaled_eq_intCast_div (cfg : Config) (c : Int) : rescaled cfg c =
    ((clampCmd cfg c - cfg.cmdMin) * (cfg.natMax - cfg.natMin) : ℤ) / (cfg.cmdMax - cfg.cmdMin : ℤ) := by
  rw [rescaled, Int.cast_mul, Int.cast_sub (clampCmd cfg c)]

/-- MAPF is x + NAT_MIN rounded half up. -/
theorem mapf_eq_floor {cfg : Config} (hw : cfg.WellFormed) (c : Int) : mapf cfg c = ⌊rescaled cfg c + cfg.natMin + 1 / 2⌋ := by
  have hd : cfg.cmdMin < cfg.cmdMax := hw.1.1
  rw [rescaled_eq_intCast_div, floor_div_add_half _ _ (by omega), ← mul_assoc]
  rfl

/-- The products that bound x and the numerator: 0 ≤ (c' - CMD_MIN) * R ≤ D * R ≤ D * 2047. -/
theorem rescaled_numerator_mem {cfg : Config} (hw : cfg.WellFormed) (c : Int) :
    0 ≤ (clampCmd cfg c - cfg.cmdMin) * (cfg.natMax - cfg.natMin) ∧
    (clampCmd cfg c - cfg.cmdMin) * (cfg.natMax - cfg.natMin) ≤ (cfg.cmdMax - cfg.cmdMin) * (cfg.natMax - cfg.natMin) ∧
    (cfg.cmdMax - cfg.cmdMin) * (cfg.natMax - cfg.natMin) ≤ (cfg.cmdMax - cfg.cmdMin) * 2047 := by
  obtain ⟨hlo, hhi⟩ := clampCmd_mem hw c
  obtain ⟨⟨hd, _⟩, ⟨hmin, hr, hmax⟩, _⟩ := hw
  exact ⟨mul_nonneg (by omega) (by omega), mul_le_mul_of_nonneg_right (by omega) (by omega),
    mul_le_mul_of_nonneg_left (by omega) (by omega)⟩

theorem rescaled_mem {cfg : Config} (hw : cfg.WellFormed) (c : Int) :
    0 ≤ rescaled cfg c ∧ rescaled cfg c ≤ (cfg.natMax - cfg.natMin : ℤ) := by
  obtain ⟨h0, h1, _⟩ := rescaled_numerator_mem hw c
  have hd : (0 : ℚ) < (cfg.cmdMax - cfg.cmdMin : ℤ) := Int.cast_pos.mpr (sub_pos.mpr hw.1.1)
  rw [rescaled_eq_intCast_div]
  refine ⟨div_nonneg (Int.cast_nonneg h0) hd.le, (div_le_iff₀' hd).mpr ?_⟩
  rw [← Int.cast_mul]
  exact Int.cast_le.mpr h1

/-- Settles O20: rounding x = (c' - CMD_MIN) * R / D half up is R81's integer division; D < 2^32 and R < 2^11 bound the
numerator. -/
theorem mapperRoundsHalfUp : Obligations.MapperRoundsHalfUp := by
  refine ⟨fun cfg hw c => ⟨rfl, ?_⟩, by decide⟩
  have hx : (clampCmd cfg c - cfg.cmdMin : ℚ) / (cfg.cmdMax - cfg.cmdMin : ℤ) * (cfg.natMax - cfg.natMin : ℤ) =
      rescaled cfg c := div_mul_eq_mul_div _ _ _
  obtain ⟨hx0, hxr⟩ := rescaled_mem hw c
  obtain ⟨h0, h1, h2⟩ := rescaled_numerator_mem hw c
  have hfloor := mapf_eq_floor hw c
  obtain ⟨⟨hd, hmin, hmax⟩, _⟩ := hw
  rw [hx, mul_assoc, mul_assoc]
  exact ⟨hfloor, hx0, hxr, by omega, by omega, by omega⟩

/-! ## O22: the only tie (R84) -/

/-- Rounding half up and rounding half down differ exactly where the value is half-way. -/
theorem floor_add_half_ne_ceil_sub_half_iff (y : ℚ) : ⌊y + 1 / 2⌋ ≠ ⌈y - 1 / 2⌉ ↔ ∃ k : ℤ, 2 * y = 2 * k + 1 := by
  have hy : y + 1 / 2 = y - 1 / 2 + 1 := by ring
  rw [hy, Int.floor_add_one, ne_comm, Ne, Int.ceil_eq_floor_add_one_iff_notMem, not_not, Set.mem_range]
  exact exists_congr fun k => ⟨fun h => by linarith, fun h => by linarith⟩

/-- Adding an integer neither makes nor removes a tie. -/
theorem exists_odd_add_intCast_iff (y : ℚ) (n : ℤ) :
    (∃ k : ℤ, 2 * (y + n) = 2 * k + 1) ↔ ∃ k : ℤ, 2 * y = 2 * k + 1 := by
  constructor
  · rintro ⟨k, h⟩
    exact ⟨k - n, by push_cast; linarith⟩
  · rintro ⟨k, h⟩
    exact ⟨k + n, by push_cast; linarith⟩

theorem rescaled_config (c : Int) : rescaled config c = ((clamp c 1000 2000 - 1000) * 1999 : ℤ) / 1000 := by
  rw [rescaled_eq_intCast_div]
  rfl

/-- At the instance x is half-way only where (c' - 1000) * 1999 is 500 modulo 1000, that is where c' is 1500. -/
theorem rescaled_config_tie_iff (c : Int) : (∃ k : ℤ, 2 * rescaled config c = 2 * k + 1) ↔ c = 1500 := by
  have hint (k : ℤ) : 2 * rescaled config c = 2 * k + 1 ↔ (clamp c 1000 2000 - 1000) * 1999 = (2 * k + 1) * 500 := by
    rw [rescaled_config, ← @Int.cast_inj ℚ]
    push_cast
    constructor <;> intro h <;> linarith
  have hc : clamp c 1000 2000 = 1500 ↔ c = 1500 := by
    unfold clamp
    repeat' split
    all_goals omega
  have hm := clamp_mem (x := c) (lo := 1000) (hi := 2000) (by decide)
  rw [exists_congr hint, ← hc]
  constructor
  · rintro ⟨k, h⟩
    omega
  · intro h
    exact ⟨999, by omega⟩

/-- Settles O22: MAPF is x + NAT_MIN rounded half up, which differs from rounding half down exactly at a tie. -/
theorem mapperOnlyTie : Obligations.MapperOnlyTie := by
  refine ⟨fun c => ⟨rescaled_config_tie_iff c, ?_⟩, by decide⟩
  rw [mapf_eq_floor config_wellFormed c]
  exact (floor_add_half_ne_ceil_sub_half_iff _).trans
    ((exists_odd_add_intCast_iff _ _).trans (rescaled_config_tie_iff c))

end Sys2Proof.Machine

/-! # The frame encoder (spec/41_frame_encoder.md) -/

namespace Sys2Proof.Machine

open Sys2Proof.Safety

/-! ## The fields of ENCF(v, t) (R90, R93) -/

theorem clampNat_mem {cfg : Config} (hw : cfg.WellFormed) (v : Int) :
    cfg.natMin ≤ clampNat cfg v ∧ clampNat cfg v ≤ cfg.natMax :=
  clamp_mem hw.2.1.2.1

/-- The clamped value is a number of 11 bits. -/
theorem ofInt11_clampNat_toNat {cfg : Config} (hw : cfg.WellFormed) (v : Int) :
    ((BitVec.ofInt 11 (clampNat cfg v)).toNat : Int) = clampNat cfg v := by
  obtain ⟨hlo, hhi⟩ := clampNat_mem hw v
  obtain ⟨_, ⟨h0, _, h2047⟩, _⟩ := hw
  exact ofInt11_toNat (h0.trans hlo) (hhi.trans h2047)

theorem frameTelem_encf (cfg : Config) (v : Int) (t : Bool) : frameTelem (encf cfg v t) = t :=
  frameTelem_packFrame _ t

/-- The clamped value is copied into VALUE whole. -/
theorem frameValue_encf_toNat {cfg : Config} (hw : cfg.WellFormed) (v : Int) (t : Bool) :
    ((frameValue (encf cfg v t)).toNat : Int) = clampNat cfg v := by
  rw [encf, frameValue_packFrame, ofInt11_clampNat_toNat hw]

/-! ## O23: the layout on integers (R91 to R93) -/

theorem qWord_toNat_eq_shiftLeft_or (v : Native) (t : Bool) : (qWord v t).toNat = v.toNat <<< 1 ||| t.toNat := by
  rw [qWord, BitVec.toNat_append, BitVec.toNat_ofBool]

theorem csumf_toNat (v : Native) (t : Bool) :
    (csumf v t).toNat = ((qWord v t).toNat ^^^ (qWord v t).toNat >>> 4 ^^^ (qWord v t).toNat >>> 8) &&& 0xF := by
  rw [csumf, nibbleXor_toNat]
  exact (Nat.and_two_pow_sub_one_eq_mod _ 4).symm

theorem packFrame_toNat_eq_shiftLeft_or (v : Native) (t : Bool) :
    (packFrame v t).toNat = (qWord v t).toNat <<< 4 ||| (csumf v t).toNat :=
  BitVec.toNat_append _ _

/-- Settles O23: the clamped value is v', and Q, the checksum and the frame are packed from it field by field. -/
theorem encoderFrameLayout : Obligations.EncoderFrameLayout := by
  refine ⟨fun cfg hw v t => ⟨(BitVec.ofInt 11 (clampNat cfg v)).toNat, _, ofInt11_clampNat_toNat hw v,
    qWord_toNat_eq_shiftLeft_or _ t, ?layout, ?value, frameTelem_encf cfg v t⟩, ?corners⟩
  case layout => rw [encf, packFrame_toNat_eq_shiftLeft_or, csumf_toNat]
  case value => rw [encf, frameValue_packFrame]
  case corners => decide

/-! ## O24: ENCF is one-to-one (R97) -/

/-- Settles O24: an in-range value is its own clamp, so VALUE and TELEM of the frame give the value and the flag back. -/
theorem encoderIsOneToOne : Obligations.EncoderIsOneToOne := by
  intro cfg hw v₁ v₂ t₁ t₂ hlo₁ hhi₁ hlo₂ hhi₂ h
  constructor
  · calc v₁ = clampNat cfg v₁ := (clamp_of_mem hlo₁ hhi₁).symm
      _ = (frameValue (encf cfg v₁ t₁)).toNat := (frameValue_encf_toNat hw v₁ t₁).symm
      _ = (frameValue (encf cfg v₂ t₂)).toNat := by rw [h]
      _ = clampNat cfg v₂ := frameValue_encf_toNat hw v₂ t₂
      _ = v₂ := clamp_of_mem hlo₂ hhi₂
  · rw [← frameTelem_encf cfg v₁ t₁, h, frameTelem_encf]

/-! ## O25: sent frames pass the receiver's check (R95, R98) -/

/-- VALUE of an encoded frame is at least NAT_MIN = 48, and VALUE of the idle frame is 0 (R95). -/
theorem encf_ne_idleFrame (v : Int) (t : Bool) : encf config v t ≠ idleFrame := by
  intro h
  have hv := frameValue_encf_toNat config_wellFormed v t
  have hmin := (clampNat_mem config_wellFormed v).1
  rw [← hv, h] at hmin
  exact absurd hmin (by decide)

/-- An emitting command sends FRAME, the idle frame or a frame of the encoder. -/
theorem frameValid_of_frameSent {s : State} {i : Instr} {f : FrameWord} (hs : FrameValid s.frame)
    (h : frameSent s i = some f) : FrameValid f := by
  cases i with
  | emit => exact Option.some.inj h ▸ hs
  | emitIdle => exact Option.some.inj h ▸ frameValid_idleFrame
  | cycle =>
    rw [frameSent] at h
    split at h
    · exact Option.some.inj h ▸ frameValid_idleFrame
    · exact Option.some.inj h ▸ frameValid_encf _ _ _
  | _ => cases h

/-- Settles O25: FRAME passes the check by the invariant, the idle frame and the encoder's frames by themselves. -/
theorem sentFramesPassTheCheck : Obligations.SentFramesPassTheCheck := by
  refine ⟨frameValid_encf, frameValid_idleFrame, encf_ne_idleFrame, ?_⟩
  rintro s f hInv ⟨w, i, _, _, hsent, _⟩
  exact frameValid_of_frameSent hInv.frames.1 hsent

/-! ## O11: the command ENCODE (R94) -/

theorem exec_encode (v : Imm) (t : Bool) (s : State) :
    exec (.encode v t) s = .next { s with frame := encf config v.toInt t } :=
  exec_eq_effect (.encode v t) s

/-- ENCF looks at its value only through the clamp (R90). -/
theorem encf_congr {cfg : Config} {v w : Int} (h : clampNat cfg v = clampNat cfg w) (t : Bool) :
    encf cfg v t = encf cfg w t := by
  rw [encf, encf, h]

theorem encf_of_le_natMin {cfg : Config} (hw : cfg.WellFormed) {v : Int} (h : v ≤ cfg.natMin) (t : Bool) :
    encf cfg v t = encf cfg cfg.natMin t :=
  encf_congr ((clamp_of_le h hw.2.1.2.1).trans (clamp_of_le le_rfl hw.2.1.2.1).symm) t

theorem encf_of_natMax_le {cfg : Config} (hw : cfg.WellFormed) {v : Int} (h : cfg.natMax ≤ v) (t : Bool) :
    encf cfg v t = encf cfg cfg.natMax t :=
  encf_congr ((clamp_of_ge h hw.2.1.2.1).trans (clamp_of_ge le_rfl hw.2.1.2.1).symm) t

/-- Settles O11: ENCODE writes FRAME alone, and beyond either end the frame is the end's own. -/
theorem encodeResult : Obligations.EncodeResult := by
  refine fun v t s => ⟨exec_encode v t s, fun hlo => ?below, fun hhi => ?above, ?inside⟩
  case below =>
    rw [encf_of_le_natMin config_wellFormed hlo.le]
    revert t
    decide
  case above =>
    rw [encf_of_natMax_le config_wellFormed hhi.le]
    revert t
    decide
  case inside =>
    rintro rfl rfl
    decide

end Sys2Proof.Machine

/-! # The timer channel and the pulse emitter (spec/42_pulse_emitter.md) -/

namespace Sys2Proof.Machine

open Sys2Proof.Safety

/-! ## O26 to O28: LoadSymbol, StartEmission and the sequencer (R110 to R112) -/

/-- A compare register holds a symbol's width whole (spec/41_frame_encoder.md R96). -/
theorem symbolWidth_toNat (f : FrameWord) (i : SymIndex) :
    (symbolWidth f i).toNat = if f.getLsbD (15 - i.toNat) then config.w1 else config.w0 := by
  show (BitVec.ofNat 16 (if f.getLsbD (15 - i.toNat) then config.w1 else config.w0)).toNat = _
  cases f.getLsbD (15 - i.toNat) <;> rfl

/-- Settles O26: the compare value loaded is the symbol's width. -/
theorem loadSymbolRule : Obligations.LoadSymbolRule :=
  fun i s => ⟨symbolWidth s.tx i, symbolWidth_toNat s.tx i, loadSymbol_eq i s⟩

/-- Settles O27: with and without a period, OE alone decides ERR_NO_OE. -/
theorem startEmissionRule : Obligations.StartEmissionRule := by
  refine fun f s => ⟨fun hp ho => ?_, fun hp ho => ?_, fun hp ho => ?_, fun hp ho => ?_⟩
  · simp [startEmission_of_period_eq_zero hp, ho]
  · simp [startEmission_of_period_eq_zero hp, ho]
  · simp [startEmission_of_period_ne_zero hp, ho, loadSymbol_eq]
  · simp [startEmission_of_period_ne_zero hp, ho, loadSymbol_eq]

/-- Settles O28, case by case of phase 1. -/
theorem sequencerRule : Obligations.SequencerRule := by
  refine fun s => ⟨fun hb hh hs => ?last, fun hb hh hs => ?next, fun h => ?none⟩
  case last => rw [sequencerPhase_last hb hh hs, endEmission_eq]
  case next => rw [sequencerPhase_next hb hh hs, loadSymbol_eq]
  case none => exact h.elim sequencerPhase_of_not_busy sequencerPhase_of_hold_ne_zero

/-! ## O12, O13, O16 to O19: the commands (R106 to R109, R113, R114) -/

/-- The compare value of a frame's first symbol, at W1 = 180 and W0 = 90. -/
theorem symbolWidth_zero (f : FrameWord) : symbolWidth f 0 = if f.getLsbD 15 then 180 else 90 := by
  show BitVec.ofNat 16 (if f.getLsbD 15 then 180 else 90) = _
  cases f.getLsbD 15 <;> rfl

/-- Settles O12: EMIT is StartEmission(FRAME). -/
theorem emitResult : Obligations.EmitResult := by
  refine fun s => ⟨fun hp => ?_, fun hp => ?_⟩ <;> rw [exec_eq_effect, effect]
  · rw [startEmission_of_period_ne_zero hp, symbolWidth_zero]
  · rw [startEmission_of_period_eq_zero hp]

/-- Settles O13: EMITIDLE is StartEmission(IDLE_FRAME), whose first symbol is a zero. -/
theorem emitIdleResult : Obligations.EmitIdleResult := by
  refine fun s => ⟨fun hp => ?_, fun hp => ?_⟩ <;> rw [exec_eq_effect, effect]
  · rw [startEmission_of_period_ne_zero hp, symbolWidth_zero]
    rfl
  · rw [startEmission_of_period_eq_zero hp]

/-- Settles O16: the command's effect is one register write. -/
theorem setPeriodResult : Obligations.SetPeriodResult := fun p s => exec_eq_effect (.setPeriod p) s

/-- Settles O17: the command's effect is one register write. -/
theorem setCmpResult : Obligations.SetCmpResult := fun w s => exec_eq_effect (.setCmp w) s

/-- Settles O18: the command's effect is the counter's write and an update event. -/
theorem reloadResult : Obligations.ReloadResult := fun s => exec_eq_effect .reload s

/-- Settles O19: the command's effect is one register write, and STATUS shows OE in bit 2. -/
theorem enOutResult : Obligations.EnOutResult := by
  intro s
  obtain ⟨_, _, hoe, _⟩ := statusWordLayout.1 { s with oe := true }
  exact ⟨_, exec_eq_effect .enOut s, rfl, hoe⟩

/-! ## O29: phase 3 (R103, R104) -/

theorem tickHold_eq (s : State) : s.tickHold = { s with hold := if s.busy then s.hold - 1 else s.hold } := by
  unfold State.tickHold
  split <;> rfl

/-- Phase 3 is the counter's tick, and HOLD counts down while BUSY = 1. -/
theorem counterPhase_eq (s : State) :
    s.counterPhase = { s.tickCounter with hold := if s.busy then s.hold - 1 else s.hold } := by
  simp only [State.counterPhase, tickHold_eq, tickCounter_busy, tickCounter_hold]

/-- Phase 1 leaves HOLD above 0 while BUSY = 1, where a busy block has a programmed period. -/
theorem sequencerPhase_hold_ne_zero {s : State} (hp : s.busy = true → s.period ≠ 0) (hb : s.sequencerPhase.busy = true) :
    s.sequencerPhase.hold ≠ 0 := by
  rcases sequencerPhase_cases s with ⟨h, e⟩ | ⟨_, e⟩ | ⟨⟨h, _⟩, e⟩ <;> rw [e] at hb ⊢
  · exact h.resolve_left (by simp [hb])
  · exact nomatch hb
  · exact hp h

/-- Settles O29: the three cases of the counter, with HOLD's count beside each. -/
theorem counterRule : Obligations.CounterRule := by
  refine ⟨fun s => ⟨_, rfl, fun hp => ?stopped, fun hp hc => ?wrap, fun hp hc => ⟨s.cnt + 1, ?toNat, ?count⟩⟩,
    fun s hp hb => ?hold⟩
  case stopped => rw [counterPhase_eq, tickCounter_of_period_eq_zero hp]
  case wrap => rw [counterPhase_eq, tickCounter_wrap hp (by bv_omega)]
  case toNat => bv_omega
  case count => rw [counterPhase_eq, tickCounter_count hp (by bv_omega)]
  case hold =>
    have hne := sequencerPhase_hold_ne_zero hp hb
    bv_omega

/-! ## O30: the pin (R105) -/

theorem pin_eq_true_iff {s : State} : s.pin = true ↔ s.oe = true ∧ s.cnt.toNat < s.ccrAct.toNat := by
  rw [State.pin, Bool.and_eq_true, decide_eq_true_iff, BitVec.lt_def]

/-- With a compare value of 0 the pin is low. -/
theorem pin_of_ccrAct_eq_zero {s : State} (h : s.ccrAct = 0) : s.pin = false := by
  rw [Bool.eq_false_iff, Ne, pin_eq_true_iff, h]
  exact fun ⟨_, hlt⟩ => Nat.not_lt_zero _ hlt

/-- Settles O30: a cycle's pin is the pin of the state phase 1 leaves. -/
theorem pinRule : Obligations.PinRule := by
  intro s t hr hs
  obtain rfl := step_eq_next_iff.mp hs
  refine ⟨phaseZero s, commandPhase_eq s, ?_⟩
  rw [afterStep_of_not_rst hr, finishCycle_dshotOut]
  refine ⟨pin_eq_true_iff, pin_of_ccrAct_eq_zero, pin_of_not_oe, fun ho hle hlt => ?_⟩
  exact pin_eq_true_iff.mpr ⟨ho, Nat.lt_of_lt_of_le hlt hle⟩

/-! ## O34 to O36: an emission (R115 to R117) -/

section
variable {s : State} {f : FrameWord}

/-- The pin at the end of cycle t0 + n of an emission, n < 16 * P. -/
theorem emission_pin (h : StartsEmission s f) {n : Nat} (hn : n < 16 * s.period.toNat) (hr : NoReset (n + 1) s) :
    (afterSteps (n + 1) s).dshotOut =
      (s.oe && decide (n % s.period.toNat < symw config (symbolBit f (n / s.period.toNat)))) := by
  obtain ⟨u, hu, ho, _, e⟩ := emission_run h n hn hr
  rw [e, counterPhase_dshotOut, outputPhase_dshotOut, pin_of_atTick hu, ho]

/-- BUSY at the end of cycle t0 + n of an emission, n < 16 * P. -/
theorem emission_busy (h : StartsEmission s f) {n : Nat} (hn : n < 16 * s.period.toNat) (hr : NoReset (n + 1) s) :
    (afterSteps (n + 1) s).busy = true := by
  obtain ⟨u, hu, _, _, e⟩ := emission_run h n hn hr
  rw [e, counterPhase_busy, outputPhase_busy, hu.busy]

/-- The end of cycle t0 + 16 * P: the emission is over, and the pin is low. -/
theorem emission_end_idle (h : StartsEmission s f) (hr : NoReset (16 * s.period.toNat + 1) s) :
    (afterSteps (16 * s.period.toNat + 1) s).busy = false ∧ (afterSteps (16 * s.period.toNat + 1) s).dshotOut = false := by
  obtain ⟨u, hb, _, hact, _, _, e⟩ := emission_end h hr
  rw [e, counterPhase_busy, outputPhase_busy, counterPhase_dshotOut, outputPhase_dshotOut]
  exact ⟨hb, pin_of_ccrAct_eq_zero hact⟩

/-- OE and ERR_NO_OE at the end of each cycle of an emission, the last one included. -/
theorem emission_flags (h : StartsEmission s f) {n : Nat} (hn : n ≤ 16 * s.period.toNat) (hr : NoReset (n + 1) s) :
    (afterSteps (n + 1) s).oe = s.oe ∧ (afterSteps (n + 1) s).errNoOe = (s.errNoOe || !s.oe) := by
  rcases Nat.lt_or_eq_of_le hn with hlt | rfl
  · obtain ⟨u, _, ho, he, e⟩ := emission_run h n hlt hr
    simp [e, ho, he]
  · obtain ⟨u, _, _, _, ho, he, e⟩ := emission_end h hr
    simp [e, ho, he]

end

/-- Tick `j` of symbol `i` is one of the ticks of an emission. -/
theorem tick_lt_sixteen_mul {i j p : Nat} (hi : i < 16) (hj : j < p) : i * p + j < 16 * p :=
  calc i * p + j < (i + 1) * p := by rw [Nat.succ_mul]; omega
    _ ≤ 16 * p := Nat.mul_le_mul_right p hi

/-- The symbol and the tick that cycle i * p + j of an emission stands at. -/
theorem tick_div_mod {i j p : Nat} (hj : j < p) : (i * p + j) / p = i ∧ (i * p + j) % p = j :=
  (Nat.div_mod_unique (by omega)).mpr ⟨by rw [Nat.mul_comm, Nat.add_comm], hj⟩

/-- Settles O34: cycle t0 + i*P + j stands at tick j of symbol i. -/
theorem emissionWaveform : Obligations.EmissionWaveform := by
  intro s f h ho hr
  refine ⟨fun i j hi hj => ⟨_, run_eq_afterSteps _ s, ?_⟩, _, run_eq_afterSteps _ s, (emission_end_idle h hr).2⟩
  have hn := tick_lt_sixteen_mul hi hj
  obtain ⟨hdiv, hmod⟩ := tick_div_mod (i := i) hj
  rw [emission_pin h hn (noReset_mono (by omega) hr), hdiv, hmod, ho, Bool.true_and, decide_eq_true_iff]
  rfl

/-- Settles O35: BUSY at each end of cycle, and a busy block accepts nothing. -/
theorem emissionDuration : Obligations.EmissionDuration := by
  intro s f h hr
  refine ⟨fun k hk => ⟨_, run_eq_afterSteps _ s, ?during⟩, ⟨_, run_eq_afterSteps _ s, ?ended⟩, fun hp => ?time⟩
  case during =>
    have hb := emission_busy h hk (noReset_mono (by omega) hr)
    exact ⟨hb, accepted_of_busy hb⟩
  case ended =>
    have hb := (emission_end_idle h hr).1
    exact ⟨hb, fun hrst => by simp [State.cmdReady, hb, hrst]⟩
  case time =>
    have hn : 16 * s.period.toNat = 3840 := by rw [hp]; rfl
    exact ⟨hn, by rw [hn, wallClock, Nat.cast_ofNat]⟩

/-- Settles O36: OE stays 0, so the pin is low in every cycle; the timing does not look at OE. -/
theorem emissionWithoutOutput : Obligations.EmissionWithoutOutput := by
  intro s f h ho hr k hk
  have hrk : NoReset (k + 1) s := noReset_mono (by omega) hr
  obtain ⟨hoe, herr⟩ := emission_flags h hk hrk
  have hoe := hoe.trans ho
  have hpin : (afterSteps (k + 1) s).dshotOut = false := by
    rw [afterSteps_succ] at hoe ⊢
    exact pinLow_of_not_oe (noReset_iff.mp hr k (by omega)) hoe
  refine ⟨_, run_eq_afterSteps _ s, hpin, hoe, by rw [herr, ho]; simp, ?_⟩
  rcases Nat.lt_or_eq_of_le hk with hlt | rfl
  · exact iff_of_true (emission_busy h hlt hrk) hlt
  · exact iff_of_false (by rw [(emission_end_idle h hr).1]; exact Bool.false_ne_true) (Nat.lt_irrefl _)

/-! ## O37: the quiet line (R118) -/

/-- Phases 2 and 3 keep a quiet line quiet, with the pin low: a wrap copies a compare preload of 0. -/
theorem quiet_counterPhase {s : State} (h : Quiet s) :
    Quiet s.outputPhase.counterPhase ∧ s.outputPhase.counterPhase.dshotOut = false := by
  obtain ⟨hb, hpre, hact⟩ := h
  refine ⟨⟨by simpa using hb, by simpa using hpre, ?_⟩, ?_⟩
  · rcases counterPhase_moves s.outputPhase with ⟨_, e⟩ | ⟨_, ⟨_, e⟩ | ⟨_, e⟩⟩
    · exact e.trans hact
    · exact e.trans hpre
    · exact e.trans hact
  · rw [counterPhase_dshotOut, outputPhase_dshotOut]
    exact pin_of_ccrAct_eq_zero hact

/-- A command that keeps a quiet line quiet, in phase 0. -/
theorem quiet_effect {i : Instr} {s : State} (hi : keepsQuiet i = true) (h : Quiet s) : Quiet (effect i s) := by
  obtain ⟨hb, hpre, hact⟩ := h
  cases i with
  | emit | emitIdle | cycle => cases hi
  | setCmp w => exact ⟨hb, beq_iff_eq.mp hi, hact⟩
  | reload => exact ⟨hb, hpre, hpre⟩
  | map c | encode v t | setCmd c | setPeriod p | enOut => exact ⟨hb, hpre, hact⟩

theorem quiet_phaseZero {s : State} (h : Quiet s) (ha : AcceptsQuietly s) : Quiet (phaseZero s) := by
  rcases phaseZero_cases s with ⟨_, e⟩ | ⟨w, i, hw, hd, e⟩ | ⟨w, _, _, _, e⟩ <;> rw [e]
  · exact h
  · exact quiet_effect (ha w i hw hd) h
  · exact h

theorem quiet_resetCycle (s : State) : Quiet s.resetCycle ∧ s.resetCycle.dshotOut = false := ⟨⟨rfl, rfl, rfl⟩, rfl⟩

/-- A cycle that accepts nothing louder than the line keeps it quiet, a reset cycle too. -/
theorem quiet_afterStep {s : State} (h : Quiet s) (ha : AcceptsQuietly s) :
    Quiet (afterStep s) ∧ (afterStep s).dshotOut = false := by
  cases hr : s.rst with
  | true =>
    rw [afterStep_of_rst hr]
    exact quiet_resetCycle s
  | false =>
    rw [afterStep_of_idle hr h.1]
    exact quiet_counterPhase (quiet_phaseZero h ha)

/-- So does a run of such cycles. -/
theorem quiet_afterSteps {s : State} (h : Quiet s) {n : Nat} (ha : ∀ k, k < n → AcceptsQuietly (afterSteps k s)) :
    Quiet (afterSteps n s) ∧ (0 < n → (afterSteps n s).dshotOut = false) := by
  induction n with
  | zero => exact ⟨h, fun h0 => absurd h0 (Nat.lt_irrefl 0)⟩
  | succ n ih =>
    obtain ⟨hq, _⟩ := ih fun k hk => ha k (by omega)
    rw [afterSteps_succ]
    obtain ⟨hq, hpin⟩ := quiet_afterStep hq (ha n (by omega))
    exact ⟨hq, fun _ => hpin⟩

/-- The cycle in which BUSY falls ends the emission, and leaves the line quiet. -/
theorem quiet_of_busy_falls {s : State} (hr : s.rst = false) (hb : s.busy = true) (h : (afterStep s).busy = false) :
    Quiet (afterStep s) ∧ (afterStep s).dshotOut = false := by
  obtain ⟨hs, hh⟩ := last_of_busy_falls hr hb h
  rw [afterStep_eq_midCycle hr, midCycle_of_busy hb, sequencerPhase_last (by exact hb) (by exact hh) (by exact hs)]
  exact quiet_counterPhase ⟨rfl, rfl, rfl⟩

/-- Only an emitting command sends a frame. -/
theorem isEmitting_of_frameSent {s : State} {i : Instr} {f : FrameWord} (h : frameSent s i = some f) :
    isEmitting i = true := by
  cases i with
  | emit | emitIdle | cycle => rfl
  | map c | encode v t | setCmd c | setPeriod p | setCmp w | reload | enOut => cases h

/-- Phase 0 without RELOAD and without an emitting command leaves BUSY, CNT and CCR_ACT. -/
theorem phaseZero_keeps_timer {s : State}
    (ha : ∀ w i, s.accepted = some w → decode w = .ok i → i ≠ .reload ∧ isEmitting i = false) :
    (phaseZero s).busy = s.busy ∧ (phaseZero s).cnt = s.cnt ∧ (phaseZero s).ccrAct = s.ccrAct := by
  rcases startsEmission_or_unchanged s with ⟨f, w, i, hw, hd, hf, _⟩ | ⟨⟨_, hb, _⟩, _, ⟨w, hw, hd⟩ | hkeep⟩
  · exact absurd (isEmitting_of_frameSent hf) (Bool.eq_false_iff.mp (ha w i hw hd).2)
  · exact absurd rfl (ha w _ hw hd).1
  · exact ⟨hb, hkeep⟩

/-- Phase 3 leaves a compare value of 0, unless the counter wraps and copies the preload. -/
theorem counterPhase_ccrAct_of_eq_zero {s : State} (h : s.ccrAct = 0) :
    s.counterPhase.ccrAct = 0 ∨
    s.period ≠ 0 ∧ s.period.toNat - 1 ≤ s.cnt.toNat ∧ s.counterPhase.cnt = 0 ∧ s.counterPhase.ccrAct = s.ccrPre := by
  rw [counterPhase_ccrAct, counterPhase_cnt]
  rcases tickCounter_cases s with ⟨_, e⟩ | ⟨⟨hp, hc⟩, e⟩ | ⟨_, e⟩ <;> rw [e]
  · exact .inl h
  · exact .inr ⟨hp, by bv_omega, rfl, rfl⟩
  · exact .inl h

/-- Settles O37: the end of an emission makes the line quiet, quiet cycles keep it so, and a written compare value waits for the
wrap. -/
theorem lineQuietAfterEmission : Obligations.LineQuietAfterEmission := by
  refine ⟨fun s t hb hr hs ht => ?ended, fun s t hq ha hs => ?cycle, fun n s hq ha => ?run, fun s t hb hact ha hs => ?waits⟩
  case ended =>
    obtain rfl := step_eq_next_iff.mp hs
    exact quiet_of_busy_falls hr hb ht
  case cycle =>
    obtain rfl := step_eq_next_iff.mp hs
    exact quiet_afterStep hq ha
  case run => exact ⟨_, run_eq_afterSteps n s, quiet_afterSteps hq fun k hk => ha k _ hk (run_eq_afterSteps k s)⟩
  case waits =>
    obtain rfl := step_eq_next_iff.mp hs
    cases hr : s.rst with
    | true =>
      rw [afterStep_of_rst hr]
      exact ⟨rfl, rfl, .inl rfl⟩
    | false =>
      obtain ⟨hb', hcnt, hact'⟩ := phaseZero_keeps_timer ha
      rw [afterStep_of_idle hr hb, counterPhase_dshotOut, outputPhase_dshotOut, counterPhase_period, counterPhase_ccrPre,
        ← hcnt]
      exact ⟨by simp [hb', hb], pin_of_ccrAct_eq_zero (hact'.trans hact),
        (counterPhase_ccrAct_of_eq_zero (s := (phaseZero s).outputPhase) (hact'.trans hact)).imp_right
          fun hwrap => ⟨rfl, hwrap⟩⟩

/-! ## O38: an emission cannot be cancelled (R120) -/

/-- What a step of a busy block without reset leaves in BUSY, SYM and HOLD, as long as the emission goes on. -/
theorem afterStep_of_busy {s : State} (hr : s.rst = false) (hb : s.busy = true) :
    (s.hold ≠ 0 → (afterStep s).busy = true ∧ (afterStep s).sym = s.sym ∧ (afterStep s).hold = s.hold - 1) ∧
    (s.hold = 0 → s.sym ≠ 15 →
      (afterStep s).busy = true ∧ (afterStep s).sym = s.sym + 1 ∧ (afterStep s).hold = s.period - 1) := by
  rw [afterStep_eq_midCycle hr, midCycle_of_busy hb]
  refine ⟨fun hh => ?_, fun hh hs => ?_⟩
  · rw [sequencerPhase_of_hold_ne_zero (by exact hh)]
    simp [hb]
  · rw [sequencerPhase_next (by exact hb) (by exact hh) (by exact hs)]
    simp [hb]

/-- Settles O38: a busy block accepts nothing, and its sequencer ends the emission at the end of symbol 15 alone. -/
theorem emissionCannotBeCancelled : Obligations.EmissionCannotBeCancelled := by
  intro s t hb hs
  obtain rfl := step_eq_next_iff.mp hs
  refine ⟨accepted_of_busy hb, ?_⟩
  cases hr : s.rst with
  | true =>
    rw [afterStep_of_rst hr]
    exact ⟨fun _ => .inl rfl, fun _ => ⟨rfl, rfl⟩, fun h => nomatch h⟩
  | false =>
    refine ⟨fun h => .inr (last_of_busy_falls hr hb h), fun h => (nomatch h), fun _ => ⟨?_, ?_, afterStep_of_busy hr hb⟩⟩
    · rw [afterStep_of_not_rst hr, phaseZero_of_busy hb, finishCycle_tx, takeInput_tx]
    · rw [afterStep_of_not_rst hr, phaseZero_of_busy hb, finishCycle_period, takeInput_period]

end Sys2Proof.Machine

/-! # The transmission scheduler (spec/43_scheduler.md) -/

namespace Sys2Proof.Machine

/-! ## O14: the command SETCMD (R131) -/

/-- Settles O14: the command's effect is one register write. -/
theorem setCmdResult : Obligations.SetCmdResult := fun c s => exec_eq_effect (.setCmd c) s

/-! ## O15: the command CYCLE (R132) -/

theorem exec_eq_next_iff {i : Instr} {s t : State} : exec i s = .next t ↔ effect i s = t := by
  rw [exec_eq_effect, Host.Outcome.next.injEq]

theorem armTest_config_eq_false_iff (c : Int) : armTest config c = false ↔ 1000 < c := by
  rw [← Bool.not_eq_true, armTest_config_iff, not_le]

/-- CYCLE with CMD_HELD at or below the minimum sends the idle frame; NATIVE and FRAME stay. -/
theorem exec_cycle_of_le {s : State} (h : s.cmdHeld.toInt ≤ 1000) :
    exec .cycle s = .next (State.startEmission idleFrame { s with mode := .arming }) :=
  exec_eq_next_iff.mpr (effect_cycle_arming ((armTest_config_iff _).mpr h))

/-- CYCLE with CMD_HELD above the minimum latches the mapped value and its frame without telemetry, and sends that frame. -/
theorem exec_cycle_of_gt {s : State} {v : Native} (hv : (v.toNat : Int) = mapf config s.cmdHeld.toInt)
    (h : 1000 < s.cmdHeld.toInt) :
    exec .cycle s = .next (State.startEmission (encf config v.toNat false)
      { s with mode := .active, native := v, frame := encf config v.toNat false }) := by
  obtain rfl := ofInt11_mapf_eq hv.symm
  exact exec_eq_next_iff.mpr (effect_cycle_active ((armTest_config_eq_false_iff _).mpr h))

/-- Settles O15: the mode's registers are written first, and StartEmission then sends the frame, or without a period only sets
flags. -/
theorem cycleResult : Obligations.CycleResult := by
  rintro s v f hv rfl
  refine ⟨fun hc hp => ?armingSends, fun hc hp => ?armingRefused, fun hc hp => ?activeSends, fun hc hp => ?activeRefused⟩
  case armingSends =>
    rw [exec_cycle_of_le hc, startEmission_of_period_ne_zero (by exact hp), symbolWidth_zero]
    rfl
  case armingRefused => rw [exec_cycle_of_le hc, startEmission_of_period_eq_zero (by exact hp)]
  case activeSends => rw [exec_cycle_of_gt hv hc, startEmission_of_period_ne_zero (by exact hp), symbolWidth_zero]
  case activeRefused => rw [exec_cycle_of_gt hv hc, startEmission_of_period_eq_zero (by exact hp)]

/-! ## O39: the arm test and the mode (R130) -/

theorem armTest_eq_true_iff (cfg : Config) (c : Int) : armTest cfg c = true ↔ clampCmd cfg c = cfg.cmdMin := beq_iff_eq

/-- The clamp meets the lower end exactly at or below it, the range being wider than one value. -/
theorem clampCmd_eq_cmdMin_iff {cfg : Config} (hw : cfg.WellFormed) {c : Int} :
    clampCmd cfg c = cfg.cmdMin ↔ c ≤ cfg.cmdMin := by
  have hd : cfg.cmdMin < cfg.cmdMax := hw.1.1
  refine ⟨fun h => ?_, fun h => clamp_of_le h hd.le⟩
  by_contra hgt
  rcases le_total c cfg.cmdMax with hhi | hhi
  · have hc : clampCmd cfg c = c := clamp_of_mem (by omega) hhi
    omega
  · have hc : clampCmd cfg c = cfg.cmdMax := clamp_of_ge hhi hd.le
    omega

/-- The clamp never goes below the lower end, so off it the clamped command is above. -/
theorem armTest_eq_false_iff {cfg : Config} (hw : cfg.WellFormed) (c : Int) :
    armTest cfg c = false ↔ cfg.cmdMin < clampCmd cfg c := by
  rw [← Bool.not_eq_true, armTest_eq_true_iff]
  exact (clampCmd_mem hw c).1.lt_iff_ne'.symm

/-- CYCLE's mode is the arm test of CMD_HELD, whatever MODE was. -/
theorem effect_cycle_mode (s : State) :
    (effect .cycle s).mode = if armTest config s.cmdHeld.toInt then .arming else .active := by
  cases hA : armTest config s.cmdHeld.toInt
  · simp [effect_cycle_active hA]
  · simp [effect_cycle_arming hA]

/-- Settles O39: ArmTest compares the clamped command with the end the clamp cannot pass, and CYCLE branches on it. -/
theorem armTestIsAtOrBelowMinimum : Obligations.ArmTestIsAtOrBelowMinimum := by
  refine ⟨fun cfg hw c => ⟨armTest_eq_true_iff cfg c, ?_, armTest_eq_false_iff hw c⟩, fun s t hs => ?_⟩
  · rw [armTest_eq_true_iff, clampCmd_eq_cmdMin_iff hw]
  · obtain rfl := exec_eq_next_iff.mp hs
    rw [effect_cycle_mode]
    cases armTest config s.cmdHeld.toInt <;> decide

/-! ## O40: level-triggered, and idempotent (R133, R134) -/

theorem effect_cycle_mode_eq_active_iff (s : State) : (effect .cycle s).mode = .active ↔ 1000 < s.cmdHeld.toInt :=
  (armTestIsAtOrBelowMinimum.2 s _ (exec_eq_effect _ _)).2.trans (armTest_config_eq_false_iff _)

theorem startEmission_tx {f : FrameWord} {s : State} (h : s.period ≠ 0) : (s.startEmission f).tx = f := by
  rw [startEmission_of_period_ne_zero h]

/-- The frame a CYCLE sends, as a function of CMD_HELD. -/
theorem effect_cycle_tx {s : State} (hp : s.period ≠ 0) : frameSent s .cycle = some (effect .cycle s).tx := by
  simp only [frameSent, config_cmdMin]
  cases hA : armTest config (sext32 s.cmdHeld)
  · rw [if_neg (not_le.mpr ((armTest_config_eq_false_iff _).mp hA)), effect_cycle_active hA, startEmission_tx (by exact hp),
      ofInt11_mapf_toNat]
  · rw [if_pos ((armTest_config_iff _).mp hA), effect_cycle_arming hA, startEmission_tx (by exact hp)]

/-- What an ACTIVE CYCLE latches, as a function of CMD_HELD. -/
theorem effect_cycle_latched {s : State} (h : 1000 < s.cmdHeld.toInt) :
    (effect .cycle s).native = BitVec.ofInt 11 (mapf config s.cmdHeld.toInt) ∧
    (effect .cycle s).frame = encf config (mapf config s.cmdHeld.toInt) false := by
  rw [effect_cycle_active ((armTest_config_eq_false_iff _).mpr h), startEmission_native, startEmission_frame,
    ofInt11_mapf_toNat]
  exact ⟨rfl, rfl⟩

/-- Settles O40: the mode, the frame sent and the latched registers are each a function of CMD_HELD, which no CYCLE writes. -/
theorem schedulerIsLevelTriggered : Obligations.SchedulerIsLevelTriggered := by
  refine ⟨fun s₁ s₂ t₁ t₂ hc h₁ h₂ => ?same, fun s t h => ?one⟩
  case same =>
    obtain rfl := exec_eq_next_iff.mp h₁
    obtain rfl := exec_eq_next_iff.mp h₂
    refine ⟨?mode, fun hp₁ hp₂ => ?tx, fun hact => ?latched⟩
    case mode => rw [effect_cycle_mode, effect_cycle_mode, hc]
    case tx =>
      have hsent : frameSent s₁ .cycle = frameSent s₂ .cycle := by rw [frameSent, frameSent, hc]
      rw [effect_cycle_tx hp₁, effect_cycle_tx hp₂] at hsent
      exact Option.some.inj hsent
    case latched =>
      have hgt := (effect_cycle_mode_eq_active_iff s₁).mp hact
      obtain ⟨hn₁, hf₁⟩ := effect_cycle_latched hgt
      obtain ⟨hn₂, hf₂⟩ := effect_cycle_latched (hc ▸ hgt)
      rw [hn₁, hn₂, hf₁, hf₂, hc]
      exact ⟨rfl, rfl⟩
  case one =>
    obtain rfl := exec_eq_next_iff.mp h
    exact ⟨effect_cycle_keeps.1, effect_cycle_mode_eq_active_iff s⟩

end Sys2Proof.Machine

/-! # Errors and flags (spec/60_exceptions.md) -/

namespace Sys2Proof.Machine

/-! ## O45: nothing stops the block (R140) -/

/-- Settles O45: every command has an effect, and every run an end state. -/
theorem noConditionStopsTheBlock : Obligations.NoConditionStopsTheBlock :=
  ⟨fun i s => ⟨_, exec_eq_effect i s⟩, fun k s => ⟨_, run_eq_afterSteps k s⟩⟩

/-! ## O7: the illegal command (R142) -/

theorem decode_eq_error_of_not_legalWord {w : CmdWord} (h : ¬ LegalWord w) : ∃ e, decode w = .error e := by
  cases hd : decode w with
  | ok i => exact absurd ((decodesExactlyTheLegalWords w).mp ⟨i, hd⟩) h
  | error e => exact ⟨e, rfl⟩

/-- An accepted word is consumed: it is off the host's script (spec/10_state.md R40). -/
theorem hostNext_of_accepted {s : State} {w : CmdWord} (h : s.accepted = some w) : s.hostNext = s.host.tail := by
  obtain ⟨_, hb, _⟩ := accepted_eq_some_iff.mp h
  cases hh : s.host with
  | nil => simp [State.hostNext, hh]
  | cons x rest => cases x <;> simp [State.hostNext, hh, hb]

theorem phaseZero_of_not_legalWord {s : State} {w : CmdWord} (ha : s.accepted = some w) (hw : ¬ LegalWord w) :
    phaseZero s = { s with errIllegal := true, host := s.host.tail } := by
  obtain ⟨e, hd⟩ := decode_eq_error_of_not_legalWord hw
  rw [phaseZero_of_accepted ha, performed_of_illegal hd, ← hostNext_of_accepted ha]
  rfl

/-- Settles O7: the word decodes to no command, so phase 0 takes it off the script and sets the flag. -/
theorem illegalWordOnlySetsItsFlag : Obligations.IllegalWordOnlySetsItsFlag := by
  intro s w ha hw
  have hr := (accepted_eq_some_iff.mp ha).1
  have hz := phaseZero_of_not_legalWord ha hw
  exact ⟨by rw [commandPhase_eq, hz], by rw [step_eq_afterStep, afterStep_of_not_rst hr, hz]⟩

/-! ## An emitting command is StartEmission (R143, R144) -/

/-- An emitting command is StartEmission after writes to MODE, NATIVE and FRAME alone. -/
theorem effect_eq_startEmission {i : Instr} (h : isEmitting i = true) (s : State) :
    ∃ f m n g, effect i s = State.startEmission f { s with mode := m, native := n, frame := g } := by
  cases i with
  | emit | emitIdle => exact ⟨_, s.mode, s.native, s.frame, rfl⟩
  | cycle =>
    cases hA : armTest config (sext32 s.cmdHeld)
    · exact ⟨_, _, _, _, effect_cycle_active hA⟩
    · exact ⟨_, _, s.native, s.frame, effect_cycle_arming hA⟩
  | map c | encode v t | setCmd c | setPeriod p | setCmp w | reload | enOut => cases h

/-! ## O42: an emitting command without a period (R144) -/

/-- With PERIOD = 0 an emitting command writes its flags, and beside them MODE, NATIVE and FRAME at most. -/
theorem effect_emitting_of_period_eq_zero {i : Instr} {s : State} (hi : isEmitting i = true) (hp : s.period = 0) :
    ∃ m n g, effect i s =
      { s with mode := m, native := n, frame := g, errPeriod := true, errNoOe := s.errNoOe || !s.oe } := by
  obtain ⟨f, m, n, g, e⟩ := effect_eq_startEmission hi s
  exact ⟨m, n, g, e.trans (startEmission_of_period_eq_zero hp)⟩

/-- CYCLE above the minimum writes all three (spec/43_scheduler.md R132). -/
theorem effect_cycle_of_gt {s : State} (h : 1000 < s.cmdHeld.toInt) :
    (effect .cycle s).mode = .active ∧ ((effect .cycle s).native.toNat : Int) = mapf config s.cmdHeld.toInt ∧
    (effect .cycle s).frame = encf config (mapf config s.cmdHeld.toInt) false := by
  obtain ⟨hn, hf⟩ := effect_cycle_latched h
  exact ⟨(effect_cycle_mode_eq_active_iff s).mpr h, by rw [hn, ofInt11_mapf_toNat], hf⟩

/-- CYCLE at or below the minimum writes MODE alone of the three (spec/43_scheduler.md R132). -/
theorem effect_cycle_of_le {s : State} (h : s.cmdHeld.toInt ≤ 1000) :
    (effect .cycle s).mode = .arming ∧ (effect .cycle s).native = s.native ∧ (effect .cycle s).frame = s.frame := by
  simp [effect_cycle_arming ((armTest_config_iff _).mpr h)]

/-- A step without reset leaves PERIOD, or it accepts a SETPERIOD, whose operand is not 0 (spec/30_encoding.md R67 (e)). -/
theorem afterStep_period_ne_zero {s : State} (hr : s.rst = false) (hp : s.period ≠ 0) : (afterStep s).period ≠ 0 := by
  by_cases h : (afterStep s).period = s.period
  · rwa [h]
  · obtain ⟨w, i, _, hd, e, hne⟩ :=
      writer_of_step_ne State.period (fun _ => rfl) (fun _ => rfl) finishCycle_period hr h
    obtain ⟨p, rfl⟩ := setPeriod_of_effect_period_ne hne
    rw [e, finishCycle_period]
    exact bne_iff_ne.mp (wellFormed_of_decode hd)

/-- Settles O42: StartEmission refuses after CYCLE's writes, and no legal SETPERIOD writes 0. -/
theorem periodNotSetRefusesEmission : Obligations.PeriodNotSetRefusesEmission := by
  refine ⟨fun i s t hi hp ht => ?refused, fun s t hs hr hp => ?programmed⟩
  case refused =>
    obtain rfl := exec_eq_next_iff.mp ht
    obtain ⟨m, n, g, e⟩ := effect_emitting_of_period_eq_zero hi hp
    refine ⟨?_, ?_, ?_, ?_, ?_, ?_, ?_, ?_, ?_, ?_, ?pin, ?active, ?arming⟩
    case active =>
      rintro rfl hgt
      exact effect_cycle_of_gt hgt
    case arming =>
      rintro rfl hle
      exact effect_cycle_of_le hle
    case pin =>
      rw [e]
      rfl
    all_goals rw [e]
  case programmed =>
    obtain rfl := step_eq_next_iff.mp hs
    exact afterStep_period_ne_zero hr hp

/-! ## O41: the flags are sticky, and read by nothing (R141) -/

theorem setErr_errFlag (e e' : ErrFlag) (s : State) : (s.setErr e).errFlag e' = (s.errFlag e' || e == e') := by
  cases e' with
  | illegal => exact setErr_errIllegal s e
  | noOe => exact setErr_errNoOe s e
  | period => exact setErr_errPeriod s e

theorem status_errFlag (e : ErrFlag) (s : State) : s.status.getLsbD e.statusBit = s.errFlag e := by
  obtain ⟨_, _, _, _, hIllegal, hNoOe, hPeriod, _⟩ := statusWordLayout.1 s
  cases e with
  | illegal => exact hIllegal
  | noOe => exact hNoOe
  | period => exact hPeriod

theorem finishCycle_errFlag (e : ErrFlag) (s : State) : s.finishCycle.errFlag e = s.errFlag e := by
  cases e with
  | illegal => exact finishCycle_errIllegal s
  | noOe => exact finishCycle_errNoOe s
  | period => exact finishCycle_errPeriod s

@[simp] theorem startEmission_errPeriod (f : FrameWord) (s : State) :
    (s.startEmission f).errPeriod = (s.errPeriod || s.period == 0) := by
  by_cases h : s.period = 0
  · rw [startEmission_of_period_eq_zero h, beq_iff_eq.mpr h, Bool.or_true]
  · rw [startEmission_of_period_ne_zero h, beq_eq_false_iff_ne.mpr h, Bool.or_false]

theorem startEmission_keeps_errFlag {e : ErrFlag} {s : State} (f : FrameWord) (h : s.errFlag e = true) :
    (s.startEmission f).errFlag e = true := by
  cases e with
  | illegal => exact (startEmission_errIllegal f s).trans h
  | noOe => exact (startEmission_errNoOe f s).trans (Bool.or_eq_true_iff.mpr (.inl h))
  | period => exact (startEmission_errPeriod f s).trans (Bool.or_eq_true_iff.mpr (.inl h))

/-- No command clears a flag: an emitting one is StartEmission, and no other touches them. -/
theorem effect_keeps_errFlag {e : ErrFlag} {s : State} (i : Instr) (h : s.errFlag e = true) :
    (effect i s).errFlag e = true := by
  cases hi : isEmitting i with
  | true =>
    obtain ⟨f, m, n, g, he⟩ := effect_eq_startEmission hi s
    rw [he]
    exact startEmission_keeps_errFlag f h
  | false =>
    cases i with
    | emit | emitIdle | cycle => cases hi
    | map c | encode v t | setCmd c | setPeriod p | setCmp w | reload | enOut => exact h

theorem afterStep_keeps_errFlag {e : ErrFlag} {s : State} (hr : s.rst = false) (h : s.errFlag e = true) :
    (afterStep s).errFlag e = true := by
  rw [afterStep_of_not_rst hr, finishCycle_errFlag]
  have hin : s.takeInput.errFlag e = true := h
  rcases phaseZero_cases s with ⟨_, eq⟩ | ⟨w, i, _, _, eq⟩ | ⟨w, _, _, _, eq⟩ <;> rw [eq]
  · exact hin
  · exact effect_keeps_errFlag i hin
  · rw [setErr_errFlag, hin, Bool.true_or]

/-- `t` is `s` but for its three error flags. -/
abbrev EqUpToFlags (t s : State) : Prop := ∃ a b c, t = withFlags a b c s

theorem startEmission_eqUpToFlags (f : FrameWord) {t s : State} (h : EqUpToFlags t s) :
    EqUpToFlags (t.startEmission f) (s.startEmission f) := by
  obtain ⟨a, b, c, rfl⟩ := h
  exact startEmission_withFlags f s a b c

theorem effect_withFlags (i : Instr) (a b c : Bool) (s : State) : EqUpToFlags (effect i (withFlags a b c s)) (effect i s) := by
  cases i with
  | emit | emitIdle => exact startEmission_eqUpToFlags _ ⟨a, b, c, rfl⟩
  | cycle =>
    cases hA : armTest config (sext32 s.cmdHeld)
    · rw [effect_cycle_active hA, effect_cycle_active (s := withFlags a b c s) hA]
      exact startEmission_eqUpToFlags _ ⟨a, b, c, rfl⟩
    · rw [effect_cycle_arming hA, effect_cycle_arming (s := withFlags a b c s) hA]
      exact startEmission_eqUpToFlags _ ⟨a, b, c, rfl⟩
  | map _ | encode _ _ | setCmd _ | setPeriod _ | setCmp _ | reload | enOut => exact ⟨a, b, c, rfl⟩

theorem performed_withFlags (w : CmdWord) (a b c : Bool) (s : State) :
    EqUpToFlags (performed w (withFlags a b c s)) (performed w s) := by
  cases hd : decode w with
  | ok i =>
    rw [performed_of_decode hd, performed_of_decode hd]
    exact effect_withFlags i a b c s
  | error e =>
    rw [performed_of_illegal hd, performed_of_illegal hd]
    exact ⟨true, b, c, rfl⟩

/-- Which word phase 0 accepts does not depend on a flag, and no command's effect does. -/
theorem phaseZero_withFlags (a b c : Bool) (s : State) : EqUpToFlags (phaseZero (withFlags a b c s)) (phaseZero s) := by
  cases ha : s.accepted with
  | none =>
    rw [phaseZero_of_not_accepted ha, phaseZero_of_not_accepted (s := withFlags a b c s) ha]
    exact ⟨a, b, c, rfl⟩
  | some w =>
    rw [phaseZero_of_accepted ha, phaseZero_of_accepted (s := withFlags a b c s) ha]
    exact performed_withFlags w a b c s.takeInput

theorem afterStep_withFlags (a b c : Bool) (s : State) : EqUpToFlags (afterStep (withFlags a b c s)) (afterStep s) := by
  cases hr : s.rst with
  | true =>
    rw [afterStep_of_rst hr, afterStep_of_rst (s := withFlags a b c s) hr]
    exact ⟨false, false, false, rfl⟩
  | false =>
    obtain ⟨a', b', c', e⟩ := phaseZero_withFlags a b c s
    rw [afterStep_of_not_rst hr, afterStep_of_not_rst (s := withFlags a b c s) hr, e]
    exact ⟨a', b', c', finishCycle_withFlags a' b' c' _⟩

/-- Settles O41: setErr adds one flag, phases 1 to 3 carry the flags through, and no phase looks at them. -/
theorem errorFlagsAreStickyAndUnread : Obligations.ErrorFlagsAreStickyAndUnread := by
  refine ⟨fun e e' s => ⟨setErr_errFlag e e' s, status_errFlag e s⟩, ⟨rfl, rfl, rfl⟩, fun e s t hs hr h => ?sticky,
    fun e s t hs hr => ?cleared, fun a b c s t t' hs hs' => ?unread⟩
  case sticky =>
    obtain rfl := step_eq_next_iff.mp hs
    exact afterStep_keeps_errFlag hr h
  case cleared =>
    obtain rfl := step_eq_next_iff.mp hs
    rw [afterStep_of_rst hr]
    cases e <;> rfl
  case unread =>
    obtain rfl := step_eq_next_iff.mp hs
    obtain rfl := step_eq_next_iff.mp hs'
    obtain ⟨a', b', c', e⟩ := afterStep_withFlags a b c s
    rw [e]

end Sys2Proof.Machine

/-! # Reset, hazards and the one-cycle commands (spec/70_reset_and_hazards.md) -/

namespace Sys2Proof.Machine

/-! ## O9: reset cycles (R160) -/

theorem rst_of_host_cons {s : State} {rest : List HostInput} (h : s.host = .reset :: rest) : s.rst = true := by
  simp [State.rst, h]

/-- A reset cycle leaves the reset state, with the script one entry further. -/
theorem afterStep_of_host_reset {s : State} {rest : List HostInput} (h : s.host = .reset :: rest) :
    afterStep s = { State.reset with host := rest } := by
  rw [afterStep_of_rst (rst_of_host_cons h), State.resetCycle, State.hostNext, h]

/-- So do several: each of them starts from nothing but its script. -/
theorem afterSteps_of_host_resets {s : State} {n : Nat} {rest : List HostInput}
    (h : s.host = List.replicate (n + 1) .reset ++ rest) : afterSteps (n + 1) s = { State.reset with host := rest } := by
  induction n generalizing s with
  | zero => exact afterStep_of_host_reset h
  | succ n ih => exact ih (congrArg State.host (afterStep_of_host_reset h))

/-- Settles O9: the first reset cycle accepts nothing, and the last one leaves the reset values. -/
theorem resetCyclesGiveTheResetState : Obligations.ResetCyclesGiveTheResetState := by
  intro s n rest h
  have hready : s.cmdReady = false := by simp [State.cmdReady, rst_of_host_cons h]
  have haccepted : s.accepted = none := by simp [State.accepted, hready]
  refine ⟨hready, haccepted, _, run_eq_afterSteps (n + 1) s, ?_⟩
  rw [afterSteps_of_host_resets h]
  exact ⟨rfl, statusWordLayout.2, rfl, rfl, rfl⟩

/-! ## The cycle that accepts a command (R37, R38, R41) -/

/-- The cycle that accepts a command is the command's effect, then phases 2 and 3: phase 1 does nothing. -/
theorem afterStep_of_decode {s : State} {w : CmdWord} {i : Instr} (ha : s.accepted = some w) (hd : decode w = .ok i) :
    afterStep s = (effect i s.takeInput).outputPhase.counterPhase := by
  obtain ⟨hr, hb, _⟩ := accepted_eq_some_iff.mp ha
  rw [afterStep_of_idle hr hb, phaseZero_of_accepted ha, performed_of_decode hd]

/-- Phase 3 applies the preload where the counter wraps, and nowhere else (spec/42_pulse_emitter.md R103, R104). -/
theorem counterPhase_ccrAct_eq_ite (s : State) :
    s.counterPhase.ccrAct = if s.period ≠ 0 ∧ s.period.toNat - 1 ≤ s.cnt.toNat then s.ccrPre else s.ccrAct := by
  rw [counterPhase_ccrAct]
  rcases tickCounter_cases s with ⟨hp, e⟩ | ⟨⟨hp, hc⟩, e⟩ | ⟨⟨hp, hc⟩, e⟩ <;> rw [e]
  · rw [if_neg fun h => h.1 hp]
  · rw [if_pos ⟨hp, by bv_omega⟩]
  · rw [if_neg fun h => hc (by bv_omega)]

/-! ## O32: a compare value waits for an update event, RELOAD is one (R167) -/

/-- Settles O32: SETCMP leaves CNT and CCR_ACT to phases 2 and 3; after RELOAD a wrap finds CCR_ACT = CCR_PRE already. -/
theorem compareWriteLatency : Obligations.CompareWriteLatency := by
  refine ⟨fun s t w v ha hd hs => ?setCmp, fun s t w ha hd hs => ?reload⟩ <;>
    rw [← step_eq_next_iff.mp hs, afterStep_of_decode ha hd, counterPhase_dshotOut, outputPhase_dshotOut,
      counterPhase_ccrAct_eq_ite]
  case setCmp => exact ⟨counterPhase_ccrPre _, rfl, rfl⟩
  case reload => exact ⟨ite_self _, rfl⟩

/-! ## O33: SETPERIOD over a running counter (R169) -/

/-- Settles O33: phase 3 compares the unchanged CNT with the new PERIOD, which no legal word makes 0. -/
theorem periodWriteOverRunningCounter : Obligations.PeriodWriteOverRunningCounter := by
  intro s t w p ha hd hs
  have hp : p ≠ 0 := bne_iff_ne.mp (wellFormed_of_decode hd)
  obtain ⟨_, _, _, hwrap, hcount⟩ := counterRule.1 (s.takeInput.setPeriod p).outputPhase
  rw [← step_eq_next_iff.mp hs, afterStep_of_decode ha hd, effect]
  refine ⟨(accepted_eq_some_iff.mp ha).2.1, counterPhase_period _, fun hle => ?_, fun hlt => ?_⟩
  · rw [hwrap hp hle]
    exact ⟨rfl, rfl⟩
  · obtain ⟨c, hc, e⟩ := hcount hp hlt
    rw [e]
    exact ⟨hc, rfl⟩

/-! ## O49: the one-cycle rows of the timing table (R171) -/

/-- Settles O49: an emission starts only with an emitting command and PERIOD ≠ 0, so the idle block stays idle. -/
theorem oneCycleCommands : Obligations.OneCycleCommands := by
  intro s t w ha hs h
  obtain rfl := step_eq_next_iff.mp hs
  obtain ⟨hr, hb, _⟩ := accepted_eq_some_iff.mp ha
  have hn : ¬ ∃ f, Safety.StartsEmission s f := by
    rintro ⟨f, w', j, ha', hd, hf, hp⟩
    cases ha.symm.trans ha'
    rcases h with ⟨e, he⟩ | ⟨i, hi, hrow⟩
    · exact nomatch hd.symm.trans he
    · cases hd.symm.trans hi
      exact hrow.elim (by simp [isEmitting_of_frameSent hf]) hp
  obtain ⟨⟨hidle, _⟩, _⟩ := step_of_no_emission hr hb hn
  exact ⟨hidle, fun hrst => by simp [State.cmdReady, hidle, hrst]⟩

end Sys2Proof.Machine
